-- ==== Sys2Proof/Word.lean ====
section
/-! DEFINITION. The word types of the machine (00_scope.md R9: unsigned integers of a stated width). -/

namespace Sys2Proof

/-- A byte: a general register, a timer, a memory cell, an immediate `kk`. -/
abbrev Byte := BitVec 8

/-- A 16-bit value: an instruction word, `PC`, `I`, a call-stack slot. -/
abbrev Word := BitVec 16

/-- A 12-bit address field `nnn`. -/
abbrev Addr12 := BitVec 12

/-- A 4-bit field of an instruction word ("nibble", 00_scope.md R14). -/
abbrev Nibble := BitVec 4

/-- A register number 0..15 (field `x` or `y`, 30_encoding.md R92). -/
abbrev Reg := Fin 16

/-- A key number 0..15 (47_host_interface.md R263). -/
abbrev Key := Fin 16

/-- The register that doubles as the flag, VF = V[15] (10_state.md R22). -/
abbrev vf : Reg := 15

end Sys2Proof
end

