-- ==== Sys2Proof/Config.lean ====
section
/-! DEFINITION. The fixed sizes of the machine (00_scope.md R6) and the parameters the spec leaves open
(00_scope.md R7). An open parameter is a constant without a body: nothing can be proved of its value. -/

namespace Sys2Proof.Config

/-- `MEM_SIZE`: addresses 0x000 to 0xFFF (00_scope.md R6). -/
abbrev memSize : Nat := 4096

/-- `PROGRAM_BASE`: where `load` puts a ROM (00_scope.md R6). -/
abbrev programBase : Nat := 0x200

/-- `RESET_PC` (00_scope.md R6, 70_reset_and_hazards.md R321). -/
abbrev resetPc : Word := 0x200#16

/-- `FONT_SIZE`: 16 glyphs of 5 bytes, from `FONT_BASE` = 0 (00_scope.md R6). -/
abbrev fontSize : Nat := 80

/-- `STACK_DEPTH` (00_scope.md R6). -/
abbrev stackDepth : Nat := 16

/-- `FONT` (00_scope.md R7, 10_state.md R37, decision D12): the byte at index 0..79 of the font table. The spec
gives its size and place, not its bytes. Free parameter, log entry 1; safe. -/
opaque font : Nat → Byte

/-- `rnd` (00_scope.md R7, 42_alu.md R182, decision D14): the random byte of the n-th draw, under no law. Free
value, log entry 2; safe. -/
opaque randomByte : Nat → Byte

/-- `KeySelect` (00_scope.md R7, 40_cycle.md R124, decision D9): the n-th draw among several pressed keys, as an
index that the cycle reduces modulo their number. Free value, log entry 3. -/
opaque keyChoice : Nat → Nat

/-- `RESET_REDRAW` (00_scope.md R7, 10_state.md R30, decision D13): the redraw flag after the reset that takes the
n-th draw. Free value, log entry 4; safe. -/
opaque resetRedraw : Nat → Bool

/-- The RECOMMENDED value of `FONT` (10_state.md R37: the usual hexadecimal font, "from general knowledge, not in
source"). Nothing in the model reads it; a claim about glyph pixels takes `FontIsRecommended` as a premise. -/
def recommendedFont : List Byte :=
  [0xF0, 0x90, 0x90, 0x90, 0xF0,  0x20, 0x60, 0x20, 0x20, 0x70,
   0xF0, 0x10, 0xF0, 0x80, 0xF0,  0xF0, 0x10, 0xF0, 0x10, 0xF0] ++
  [0x90, 0x90, 0xF0, 0x10, 0x10,  0xF0, 0x80, 0xF0, 0x10, 0xF0,
   0xF0, 0x80, 0xF0, 0x90, 0xF0,  0xF0, 0x10, 0x20, 0x40, 0x40] ++
  [0xF0, 0x90, 0xF0, 0x90, 0xF0,  0xF0, 0x90, 0xF0, 0x10, 0xF0,
   0xF0, 0x90, 0xF0, 0x90, 0x90,  0xE0, 0x90, 0xE0, 0x90, 0xE0] ++
  [0xF0, 0x80, 0x80, 0x80, 0xF0,  0xE0, 0x90, 0x90, 0x90, 0xE0,
   0xF0, 0x80, 0xF0, 0x80, 0xF0,  0xF0, 0x80, 0xF0, 0x80, 0x80]

/-- The premise a claim names when it depends on the font bytes (10_state.md R37). -/
def FontIsRecommended : Prop := ∀ i, i < fontSize → recommendedFont[i]? = some (font i)

end Sys2Proof.Config
end

