-- ==== Sys2Proof/Syntax.lean ====
section
/-! DEFINITION. The 34 instructions of 30_encoding.md R96, in the table's order. Operand types carry the widths of
R92, so an operand outside its field cannot be built. -/

namespace Sys2Proof

/-- One constructor per row of spec/opcode_table.json. -/
inductive Instr where
  /-- 00E0 `CLS` (44_display.md R221). -/
  | cls
  /-- 00EE `RET` (41_control_flow.md R151). -/
  | ret
  /-- 1nnn `JP nnn` (41_control_flow.md R152). -/
  | jp (nnn : Addr12)
  /-- 2nnn `CALL nnn` (41_control_flow.md R153). -/
  | call (nnn : Addr12)
  /-- 3xkk `SE Vx, kk` (41_control_flow.md R154). -/
  | seImm (x : Reg) (kk : Byte)
  /-- 4xkk `SNE Vx, kk` (41_control_flow.md R155). -/
  | sneImm (x : Reg) (kk : Byte)
  /-- 5xy0 `SE Vx, Vy` (41_control_flow.md R156). -/
  | seReg (x y : Reg)
  /-- 6xkk `LD Vx, kk` (42_alu.md R171). -/
  | ldImm (x : Reg) (kk : Byte)
  /-- 7xkk `ADD Vx, kk` (42_alu.md R172). -/
  | addImm (x : Reg) (kk : Byte)
  /-- 8xy0 `LD Vx, Vy` (42_alu.md R173). -/
  | ldReg (x y : Reg)
  /-- 8xy1 `OR Vx, Vy` (42_alu.md R174). -/
  | orReg (x y : Reg)
  /-- 8xy2 `AND Vx, Vy` (42_alu.md R175). -/
  | andReg (x y : Reg)
  /-- 8xy3 `XOR Vx, Vy` (42_alu.md R176). -/
  | xorReg (x y : Reg)
  /-- 8xy4 `ADD Vx, Vy` (42_alu.md R177). -/
  | addReg (x y : Reg)
  /-- 8xy5 `SUB Vx, Vy` (42_alu.md R178). -/
  | sub (x y : Reg)
  /-- 8xy6 `SHR Vx` (42_alu.md R179): `y` is encoded and ignored. -/
  | shr (x y : Reg)
  /-- 8xy7 `SUBN Vx, Vy` (42_alu.md R180). -/
  | subn (x y : Reg)
  /-- 8xyE `SHL Vx` (42_alu.md R181): `y` is encoded and ignored. -/
  | shl (x y : Reg)
  /-- 9xy0 `SNE Vx, Vy` (41_control_flow.md R158). -/
  | sneReg (x y : Reg)
  /-- Annn `LD I, nnn` (43_index_memory.md R201). -/
  | ldI (nnn : Addr12)
  /-- Bnnn `JP V0, nnn` (41_control_flow.md R157). -/
  | jpV0 (nnn : Addr12)
  /-- Cxkk `RND Vx, kk` (42_alu.md R182). -/
  | rnd (x : Reg) (kk : Byte)
  /-- Dxyn `DRW Vx, Vy, n` (44_display.md R222). -/
  | drw (x y : Reg) (n : Nibble)
  /-- Ex9E `SKP Vx` (45_keypad_timers.md R241). -/
  | skp (x : Reg)
  /-- ExA1 `SKNP Vx` (45_keypad_timers.md R242). -/
  | sknp (x : Reg)
  /-- Fx07 `LD Vx, DT` (45_keypad_timers.md R244). -/
  | ldVxDt (x : Reg)
  /-- Fx0A `LD Vx, K` (45_keypad_timers.md R243). -/
  | ldVxK (x : Reg)
  /-- Fx15 `LD DT, Vx` (45_keypad_timers.md R245). -/
  | ldDtVx (x : Reg)
  /-- Fx18 `LD ST, Vx` (45_keypad_timers.md R246). -/
  | ldStVx (x : Reg)
  /-- Fx1E `ADD I, Vx` (43_index_memory.md R202). -/
  | addI (x : Reg)
  /-- Fx29 `LD F, Vx` (43_index_memory.md R203). -/
  | ldF (x : Reg)
  /-- Fx33 `LD B, Vx` (43_index_memory.md R206). -/
  | ldB (x : Reg)
  /-- Fx55 `LD [I], Vx` (43_index_memory.md R204). -/
  | ldMemVx (x : Reg)
  /-- Fx65 `LD Vx, [I]` (43_index_memory.md R205). -/
  | ldVxMem (x : Reg)
  deriving DecidableEq, Repr

end Sys2Proof
end

