-- ==== Sys2Proof/WellFormed.lean ====
section
/-! DEFINITION. Well-formedness of operands (30_encoding.md R92). The types of `Instr` carry every bound, so a term of
type `Instr` is always well formed; what can be out of range is an operand still written as a number, and the checks
below are what such a number must pass before it is an operand. -/

namespace Sys2Proof.WellFormed

/-- A register number `x` or `y`: 0..15 (R92). -/
def regOk (x : Nat) : Bool := x < 16

/-- An immediate `kk`: 0x00..0xFF (R92). -/
def immOk (kk : Nat) : Bool := kk < 256

/-- An address `nnn`: 0x000..0xFFF (R92). -/
def addrOk (nnn : Nat) : Bool := nnn < 4096

/-- A row count `n`: 0..15 (R92). -/
def rowsOk (n : Nat) : Bool := n < 16

end Sys2Proof.WellFormed

namespace Sys2Proof

open WellFormed

/-- Every operand of the instruction passes the check of its field. -/
def Instr.wellFormed : Instr → Bool
  | .cls | .ret => true
  | .jp nnn | .call nnn | .ldI nnn | .jpV0 nnn => addrOk nnn.toNat
  | .seImm x kk | .sneImm x kk | .ldImm x kk | .addImm x kk | .rnd x kk => regOk x && immOk kk.toNat
  | .seReg x y | .ldReg x y | .orReg x y | .andReg x y | .xorReg x y | .addReg x y | .sub x y | .shr x y
  | .subn x y | .shl x y | .sneReg x y => regOk x && regOk y
  | .drw x y n => regOk x && regOk y && rowsOk n.toNat
  | .skp x | .sknp x | .ldVxDt x | .ldVxK x | .ldDtVx x | .ldStVx x | .addI x | .ldF x | .ldB x | .ldMemVx x
  | .ldVxMem x => regOk x

end Sys2Proof
end

