-- ==== Sys2Proof/Decode.lean ====
section
/-! DEFINITION. The decoder and the encoder (30_encoding.md R90 to R97). The decoder is total; a word of no row is
rejected by name, as the unknown opcode it is (R97). -/

namespace Sys2Proof

/-! ### Fields of an instruction word (00_scope.md R11) -/

/-- `opcode[15:12]`, the major opcode. -/
def Word.major (w : Word) : Nibble := w.extractLsb' 12 4
/-- `x = opcode[11:8]`. -/
def Word.x (w : Word) : Reg := (w.extractLsb' 8 4).toFin
/-- `y = opcode[7:4]`. -/
def Word.y (w : Word) : Reg := (w.extractLsb' 4 4).toFin
/-- `n = opcode[3:0]`. -/
def Word.n (w : Word) : Nibble := w.extractLsb' 0 4
/-- `kk = opcode[7:0]`. -/
def Word.kk (w : Word) : Byte := w.extractLsb' 0 8
/-- `nnn = opcode[11:0]`. -/
def Word.nnn (w : Word) : Addr12 := w.extractLsb' 0 12

/-! ### Decoding -/

/-- Why bytes are no instruction. -/
inductive Reject where
  /-- Fewer than two bytes: no instruction word can be read (R90). -/
  | truncated
  /-- The word matches no row of R96 (R97). -/
  | unknownOpcode (w : Word)
  deriving DecidableEq, Repr

/-- Major opcode 0x0: the whole word must match (R93). -/
def decodeZero (w : Word) : Except Reject Instr :=
  if w = 0x00E0#16 then .ok .cls
  else if w = 0x00EE#16 then .ok .ret
  else .error (.unknownOpcode w)

/-- Major opcode 0x8: second level on the low nibble (R93). -/
def decodeEight (w : Word) : Except Reject Instr :=
  if w.n = 0x0#4 then .ok (.ldReg w.x w.y)
  else if w.n = 0x1#4 then .ok (.orReg w.x w.y)
  else if w.n = 0x2#4 then .ok (.andReg w.x w.y)
  else if w.n = 0x3#4 then .ok (.xorReg w.x w.y)
  else if w.n = 0x4#4 then .ok (.addReg w.x w.y)
  else if w.n = 0x5#4 then .ok (.sub w.x w.y)
  else if w.n = 0x6#4 then .ok (.shr w.x w.y)
  else if w.n = 0x7#4 then .ok (.subn w.x w.y)
  else if w.n = 0xE#4 then .ok (.shl w.x w.y)
  else .error (.unknownOpcode w)

/-- Major opcode 0xE: second level on the low byte (R93). -/
def decodeE (w : Word) : Except Reject Instr :=
  if w.kk = 0x9E#8 then .ok (.skp w.x)
  else if w.kk = 0xA1#8 then .ok (.sknp w.x)
  else .error (.unknownOpcode w)

/-- Major opcode 0xF: second level on the low byte (R93). -/
def decodeF (w : Word) : Except Reject Instr :=
  if w.kk = 0x07#8 then .ok (.ldVxDt w.x)
  else if w.kk = 0x0A#8 then .ok (.ldVxK w.x)
  else if w.kk = 0x15#8 then .ok (.ldDtVx w.x)
  else if w.kk = 0x18#8 then .ok (.ldStVx w.x)
  else if w.kk = 0x1E#8 then .ok (.addI w.x)
  else if w.kk = 0x29#8 then .ok (.ldF w.x)
  else if w.kk = 0x33#8 then .ok (.ldB w.x)
  else if w.kk = 0x55#8 then .ok (.ldMemVx w.x)
  else if w.kk = 0x65#8 then .ok (.ldVxMem w.x)
  else .error (.unknownOpcode w)

/-- The two-level dispatch of R93: the top nibble, then for 0x5 and 0x9 the fixed low nibble 0 (decision D17, log
entry 11), for 0x0, 0x8, 0xE, 0xF the second level. -/
def decodeWord (w : Word) : Except Reject Instr :=
  if w.major = 0x0#4 then decodeZero w
  else if w.major = 0x1#4 then .ok (.jp w.nnn)
  else if w.major = 0x2#4 then .ok (.call w.nnn)
  else if w.major = 0x3#4 then .ok (.seImm w.x w.kk)
  else if w.major = 0x4#4 then .ok (.sneImm w.x w.kk)
  else if w.major = 0x5#4 then if w.n = 0x0#4 then .ok (.seReg w.x w.y) else .error (.unknownOpcode w)
  else if w.major = 0x6#4 then .ok (.ldImm w.x w.kk)
  else if w.major = 0x7#4 then .ok (.addImm w.x w.kk)
  else if w.major = 0x8#4 then decodeEight w
  else if w.major = 0x9#4 then if w.n = 0x0#4 then .ok (.sneReg w.x w.y) else .error (.unknownOpcode w)
  else if w.major = 0xA#4 then .ok (.ldI w.nnn)
  else if w.major = 0xB#4 then .ok (.jpV0 w.nnn)
  else if w.major = 0xC#4 then .ok (.rnd w.x w.kk)
  else if w.major = 0xD#4 then .ok (.drw w.x w.y w.n)
  else if w.major = 0xE#4 then decodeE w
  else decodeF w

/-- The big-endian combination of two bytes, `b0 * 256 + b1` (20_memory.md R63). -/
def wordOfBytes (b0 b1 : Byte) : Word := b0 ++ b1

/-- Decode the instruction at the head of a byte sequence; the bytes after it are returned (R90: always two are
used). -/
def decodeBytes : List Byte → Except Reject (Instr × List Byte)
  | b0 :: b1 :: rest =>
    match decodeWord (wordOfBytes b0 b1) with
    | .ok i => .ok (i, rest)
    | .error r => .error r
  | _ => .error .truncated

/-! ### Encoding -/

/-- The 4-bit field of a register number (R92). -/
def regField (x : Reg) : Nibble := BitVec.ofFin x

/-- Format NNN (R91). -/
def formatNNN (major : Nibble) (nnn : Addr12) : Word := major ++ nnn
/-- Format XKK (R91); format XF is the same layout with the minor opcode in place of `kk`. -/
def formatXKK (major : Nibble) (x : Reg) (kk : Byte) : Word := major ++ regField x ++ kk
/-- Format XYN (R91); format XY is the same layout with the minor opcode in place of `n`. -/
def formatXYN (major : Nibble) (x y : Reg) (n : Nibble) : Word := major ++ regField x ++ regField y ++ n

/-- The word of an instruction, from the pattern column of R96. -/
def encode : Instr → Word
  | .cls => 0x00E0#16
  | .ret => 0x00EE#16
  | .jp nnn => formatNNN 0x1#4 nnn
  | .call nnn => formatNNN 0x2#4 nnn
  | .seImm x kk => formatXKK 0x3#4 x kk
  | .sneImm x kk => formatXKK 0x4#4 x kk
  | .seReg x y => formatXYN 0x5#4 x y 0x0#4
  | .ldImm x kk => formatXKK 0x6#4 x kk
  | .addImm x kk => formatXKK 0x7#4 x kk
  | .ldReg x y => formatXYN 0x8#4 x y 0x0#4
  | .orReg x y => formatXYN 0x8#4 x y 0x1#4
  | .andReg x y => formatXYN 0x8#4 x y 0x2#4
  | .xorReg x y => formatXYN 0x8#4 x y 0x3#4
  | .addReg x y => formatXYN 0x8#4 x y 0x4#4
  | .sub x y => formatXYN 0x8#4 x y 0x5#4
  | .shr x y => formatXYN 0x8#4 x y 0x6#4
  | .subn x y => formatXYN 0x8#4 x y 0x7#4
  | .shl x y => formatXYN 0x8#4 x y 0xE#4
  | .sneReg x y => formatXYN 0x9#4 x y 0x0#4
  | .ldI nnn => formatNNN 0xA#4 nnn
  | .jpV0 nnn => formatNNN 0xB#4 nnn
  | .rnd x kk => formatXKK 0xC#4 x kk
  | .drw x y n => formatXYN 0xD#4 x y n
  | .skp x => formatXKK 0xE#4 x 0x9E#8
  | .sknp x => formatXKK 0xE#4 x 0xA1#8
  | .ldVxDt x => formatXKK 0xF#4 x 0x07#8
  | .ldVxK x => formatXKK 0xF#4 x 0x0A#8
  | .ldDtVx x => formatXKK 0xF#4 x 0x15#8
  | .ldStVx x => formatXKK 0xF#4 x 0x18#8
  | .addI x => formatXKK 0xF#4 x 0x1E#8
  | .ldF x => formatXKK 0xF#4 x 0x29#8
  | .ldB x => formatXKK 0xF#4 x 0x33#8
  | .ldMemVx x => formatXKK 0xF#4 x 0x55#8
  | .ldVxMem x => formatXKK 0xF#4 x 0x65#8

/-- The high byte of a word, the one at the lower address (R90, 20_memory.md R63). -/
def Word.hiByte (w : Word) : Byte := w.extractLsb' 8 8
/-- The low byte of a word, the one at the higher address. -/
def Word.loByte (w : Word) : Byte := w.extractLsb' 0 8

/-- The two bytes of an instruction as they lie in memory. -/
def encodeBytes (i : Instr) : List Byte := [(encode i).hiByte, (encode i).loByte]

/-! ### The opcode table as the spec prints it (R96) -/

/-- A row of R96: a word is the row's instruction when `w &&& mask = pattern`. -/
structure Row where
  mnemonic : String
  mask : Word
  pattern : Word
  deriving DecidableEq, Repr

/-- `w & mask = match` (R96). -/
def Row.covers (r : Row) (w : Word) : Bool := w &&& r.mask == r.pattern

/-- Rows 1 to 9 of R96. -/
def rowsControlAndImmediate : List Row :=
  [⟨"CLS", 0xFFFF, 0x00E0⟩, ⟨"RET", 0xFFFF, 0x00EE⟩, ⟨"JP_nnn", 0xF000, 0x1000⟩, ⟨"CALL_nnn", 0xF000, 0x2000⟩,
   ⟨"SE_Vx__kk", 0xF000, 0x3000⟩, ⟨"SNE_Vx__kk", 0xF000, 0x4000⟩, ⟨"SE_Vx__Vy", 0xF00F, 0x5000⟩,
   ⟨"LD_Vx__kk", 0xF000, 0x6000⟩, ⟨"ADD_Vx__kk", 0xF000, 0x7000⟩]

/-- Rows 10 to 18 of R96. -/
def rowsEight : List Row :=
  [⟨"LD_Vx__Vy", 0xF00F, 0x8000⟩, ⟨"OR_Vx__Vy", 0xF00F, 0x8001⟩, ⟨"AND_Vx__Vy", 0xF00F, 0x8002⟩,
   ⟨"XOR_Vx__Vy", 0xF00F, 0x8003⟩, ⟨"ADD_Vx__Vy", 0xF00F, 0x8004⟩, ⟨"SUB_Vx__Vy", 0xF00F, 0x8005⟩,
   ⟨"SHR_Vx", 0xF00F, 0x8006⟩, ⟨"SUBN_Vx__Vy", 0xF00F, 0x8007⟩, ⟨"SHL_Vx", 0xF00F, 0x800E⟩]

/-- Rows 19 to 25 of R96. -/
def rowsNineToE : List Row :=
  [⟨"SNE_Vx__Vy", 0xF00F, 0x9000⟩, ⟨"LD_I__nnn", 0xF000, 0xA000⟩, ⟨"JP_V0__nnn", 0xF000, 0xB000⟩,
   ⟨"RND_Vx__kk", 0xF000, 0xC000⟩, ⟨"DRW_Vx__Vy__n", 0xF000, 0xD000⟩, ⟨"SKP_Vx", 0xF0FF, 0xE09E⟩,
   ⟨"SKNP_Vx", 0xF0FF, 0xE0A1⟩]

/-- Rows 26 to 34 of R96. -/
def rowsF : List Row :=
  [⟨"LD_Vx__DT", 0xF0FF, 0xF007⟩, ⟨"LD_Vx__K", 0xF0FF, 0xF00A⟩, ⟨"LD_DT__Vx", 0xF0FF, 0xF015⟩,
   ⟨"LD_ST__Vx", 0xF0FF, 0xF018⟩, ⟨"ADD_I__Vx", 0xF0FF, 0xF01E⟩, ⟨"LD_F__Vx", 0xF0FF, 0xF029⟩,
   ⟨"LD_B__Vx", 0xF0FF, 0xF033⟩, ⟨"LD__I___Vx", 0xF0FF, 0xF055⟩, ⟨"LD_Vx___I", 0xF0FF, 0xF065⟩]

/-- The complete table of R96: 34 rows. -/
def opcodeTable : List Row := rowsControlAndImmediate ++ (rowsEight ++ (rowsNineToE ++ rowsF))

/-- The row number (from 0) of an instruction in R96. -/
def Instr.rowIndex : Instr → Fin 34
  | .cls => 0 | .ret => 1 | .jp _ => 2 | .call _ => 3 | .seImm _ _ => 4 | .sneImm _ _ => 5 | .seReg _ _ => 6
  | .ldImm _ _ => 7 | .addImm _ _ => 8 | .ldReg _ _ => 9 | .orReg _ _ => 10 | .andReg _ _ => 11 | .xorReg _ _ => 12
  | .addReg _ _ => 13 | .sub _ _ => 14 | .shr _ _ => 15 | .subn _ _ => 16 | .shl _ _ => 17 | .sneReg _ _ => 18
  | .ldI _ => 19 | .jpV0 _ => 20 | .rnd _ _ => 21 | .drw _ _ _ => 22 | .skp _ => 23 | .sknp _ => 24
  | .ldVxDt _ => 25 | .ldVxK _ => 26 | .ldDtVx _ => 27 | .ldStVx _ => 28 | .addI _ => 29 | .ldF _ => 30
  | .ldB _ => 31 | .ldMemVx _ => 32 | .ldVxMem _ => 33

/-- The row of an instruction in R96. -/
def Instr.row (i : Instr) : Row := opcodeTable[i.rowIndex]'(by have := i.rowIndex.isLt; exact this)

/-! ### The host's question about a word of the opcode table -/

/-- The instruction this decoder reads from the first `nbits` bits of `w`, numbered as the opcode table numbers them
(bit 0 the least significant bit of the one 16-bit word; bits from `nbits` up are 0), laid out in memory high byte
first. -/
def decodeTableWord (nbits w : Nat) : Option Instr :=
  let word : Word := BitVec.ofNat 16 (w % 2 ^ nbits)
  match decodeBytes [word.hiByte, word.loByte] with
  | .ok (i, _) => some i
  | .error _ => none

end Sys2Proof
end

