-- ==== Sys2Proof/Machine/State.lean ====
section
/-! DEFINITION. The state of the core (10_state.md R20), its reset value (10_state.md R39) and the outcomes of a step.
Plain data: two states can be compared and written out. -/

namespace Sys2Proof.Machine

/-- The value of the sticky element `fault` (10_state.md R36, 60_exceptions.md R291). -/
inductive FaultCode where
  | none
  | stackOverflow
  | stackUnderflow
  | addressOutOfRange
  deriving DecidableEq, Repr

/-- The pause and single-step control (10_state.md R34). -/
inductive RunMode where
  | running
  | paused
  | singleStepPending
  deriving DecidableEq, Repr

/-- A pulse of an event output (10_state.md R38, 47_host_interface.md R274, R275). -/
inductive Event where
  /-- `tone` (R274). -/
  | tone
  /-- `unknown_opcode(w)` (R275). -/
  | unknownOpcode (w : Word)
  deriving DecidableEq, Repr

/-- Memory as the cells that differ from what an unlisted address reads as, by strictly rising address
(`Memory.wf`). -/
abbrev Memory := List Host.Cell

/-- The display: row r is `disp[r]`, and bit c of it is pixel (r, c) (10_state.md R29). -/
abbrev Display := Vector (BitVec 64) 32

/-- The complete state (10_state.md R20). The last two fields are the model's own. -/
structure State where
  /-- `V[0..15]` (R21). -/
  v : Vector Byte 16
  /-- `I` (R23). -/
  i : Word
  /-- `PC` (R24). -/
  pc : Word
  /-- `SP`, 0 (empty) to 16 (full) (R25). -/
  sp : Fin 17
  /-- `stack[0..15]` (R25). -/
  stack : Vector Word 16
  /-- `DT` (R26). -/
  dt : Byte
  /-- `ST` (R27). -/
  st : Byte
  /-- `mem[0..4095]` (R28). -/
  mem : Memory
  /-- `disp[0..31][0..63]` (R29). -/
  disp : Display
  /-- `redraw` (R30). -/
  redraw : Bool
  /-- `key[0..15]` (R31). -/
  key : Vector Bool 16
  /-- `last_key` (R32). -/
  lastKey : Key
  /-- `waiting` (R33). -/
  waiting : Bool
  /-- `wait_reg` (R33). -/
  waitReg : Reg
  /-- `run_mode` (R34). -/
  runMode : RunMode
  /-- `opcode` (R35). -/
  opcode : Word
  /-- `fault` (R36). -/
  fault : FaultCode
  /-- THE MODEL'S OWN (log entry 5): the number of the next free value. -/
  draws : Nat
  /-- THE MODEL'S OWN (log entry 6): the pulses sent to the host so far, most recent first. -/
  events : List Event
  deriving DecidableEq, Repr

/-- The state after power-on (10_state.md R39, 70_reset_and_hazards.md R320): the spec's values, most of them its own
decisions D2, D7, D8 (log entry 7). `redraw` is a free value (log entry 4);
`draws` and `events` are the model's own (log entries 5 and 6, DESIGN CHOICE). -/
def State.reset : State where
  v := Vector.replicate 16 0
  i := 0
  pc := Config.resetPc
  sp := 0
  stack := Vector.replicate 16 0
  dt := 0
  st := 0
  mem := []
  disp := Vector.replicate 32 0
  redraw := Config.resetRedraw 0
  key := Vector.replicate 16 false
  lastKey := 0
  waiting := false
  waitReg := 0
  runMode := .running
  opcode := 0
  fault := .none
  draws := 1
  events := []

/-- Reasons for which a STEP ends in an outcome `fault`: there are none. The machine's faults are values of the state
element `fault`, entered by a next state (60_exceptions.md R292), and every `runCycle` completes
(47_host_interface.md R260). -/
inductive Fault where
  deriving DecidableEq, Repr

/-- Reasons for which an instruction is refused. -/
inductive Refusal where
  /-- The instruction of that mnemonic has no meaning yet. Raised only by an arm of `exec`; safe. No arm raises it:
  every instruction has its meaning. -/
  | notModelled (mnemonic : String)
  deriving DecidableEq, Repr

/-- What a meaning or a step answers. -/
abbrev StepOutcome := Host.Outcome State Fault Refusal

end Sys2Proof.Machine
end

