-- ==== Sys2Proof/Machine/Ops.lean ====
section
/-! DEFINITION. The named operations over memory, registers and the other elements of State, and taking a fault. -/

namespace Sys2Proof.Machine

/-! ### Memory (20_memory.md) -/

/-- What an address holds until it is written: the font at 0x000..0x04F, zero elsewhere (10_state.md R39). The font
is a parameter (log entry 1). -/
def unlistedByte (a : Nat) : Byte := if a < Config.fontSize then Config.font a else 0

/-- `MemRead(a, 1)` (00_scope.md R10). Every caller has checked that `a` is below 4096 (20_memory.md R66). -/
def Memory.read : Memory → Nat → Byte
  | [], a => unlistedByte a
  | (k, b) :: m, a => if k = a then b else Memory.read m a

/-- Put a cell in its place among rising addresses, replacing the one that is there. -/
def Memory.put : Memory → Nat → Byte → Memory
  | [], a, b => [(a, b)]
  | (k, c) :: m, a, b =>
    if a < k then (a, b) :: (k, c) :: m
    else if a = k then (a, b) :: m
    else (k, c) :: Memory.put m a b

/-- Unlist an address. -/
def Memory.erase (m : Memory) (a : Nat) : Memory := m.filter fun cell => cell.1 ≠ a

/-- `MemWrite(a, 1, b)` (00_scope.md R10): dropped at 4096 and beyond (20_memory.md R67). The canonical form lists
no cell that holds what an unlisted one reads as. -/
def Memory.write (m : Memory) (a : Nat) (b : Byte) : Memory :=
  if a < Config.memSize then
    if b = unlistedByte a then m.erase a else m.put a b
  else m

/-- Bytes to consecutive ascending addresses, each judged on its own address (20_memory.md R64, R67). The order of
LD B, of LD [I], Vx and of `load`. -/
def Memory.writeBytes : Memory → Nat → List Byte → Memory
  | m, _, [] => m
  | m, a, b :: bs => Memory.writeBytes (m.write a b) (a + 1) bs

/-- The canonical form: addresses strictly rising, each below 4096, no cell equal to what its address reads as
unlisted. -/
abbrev Memory.wf (m : Memory) : Prop :=
  m.Pairwise (fun p q => p.1 < q.1) ∧ ∀ p ∈ m, p.1 < Config.memSize ∧ p.2 ≠ unlistedByte p.1

/-! ### General registers, I, PC -/

/-- Read of `V[x]` (10_state.md R21). -/
def State.getV (s : State) (x : Reg) : Byte := s.v[x]
/-- `V[x] <- b` (10_state.md R21). -/
def State.setV (s : State) (x : Reg) (b : Byte) : State := { s with v := s.v.set x b }
/-- `I <- a` (10_state.md R23). -/
def State.setI (s : State) (a : Word) : State := { s with i := a }
/-- `PC <- a` (10_state.md R24). -/
def State.setPc (s : State) (a : Word) : State := { s with pc := a }
/-- `PC <- PC + n`, modulo 65536 (10_state.md R24, decision D28, log entry 14). -/
def State.advance (s : State) (n : Word) : State := s.setPc (s.pc + n)

/-! ### Call stack (10_state.md R25) -/

/-- `stack[k] <- a`. -/
def State.setSlot (s : State) (k : Fin 16) (a : Word) : State := { s with stack := s.stack.set k a }
/-- `SP <- k`. -/
def State.setSp (s : State) (k : Fin 17) : State := { s with sp := k }

/-! ### Timers (10_state.md R26, R27) -/

/-- `DT <- b`. -/
def State.setDt (s : State) (b : Byte) : State := { s with dt := b }
/-- `ST <- b`. -/
def State.setSt (s : State) (b : Byte) : State := { s with st := b }

/-! ### Memory and display as elements of the state -/

/-- Replace the memory. -/
def State.setMem (s : State) (m : Memory) : State := { s with mem := m }
/-- Replace the display buffer. -/
def State.setDisp (s : State) (d : Display) : State := { s with disp := d }
/-- `redraw <- b` (10_state.md R30). -/
def State.setRedraw (s : State) (b : Bool) : State := { s with redraw := b }

/-- Pixel (r, c) (10_state.md R29). -/
def Display.pixel (d : Display) (r : Fin 32) (c : Fin 64) : Bool := d[r].getLsbD c
/-- `disp[r][c] <- disp[r][c] ^ 1`. -/
def Display.toggle (d : Display) (r : Fin 32) (c : Fin 64) : Display := d.set r (d[r] ^^^ BitVec.twoPow 64 c)
/-- All pixels 0. -/
def Display.clear : Display := Vector.replicate 32 0

/-! ### Keypad and key-wait (10_state.md R31 to R33) -/

/-- `key[k]`. -/
def State.getKey (s : State) (k : Key) : Bool := s.key[k]
/-- `key[k] <- b`. -/
def State.setKey (s : State) (k : Key) (b : Bool) : State := { s with key := s.key.set k b }
/-- `last_key <- k`. -/
def State.setLastKey (s : State) (k : Key) : State := { s with lastKey := k }
/-- `waiting <- b`. -/
def State.setWaiting (s : State) (b : Bool) : State := { s with waiting := b }
/-- `wait_reg <- x`. -/
def State.setWaitReg (s : State) (x : Reg) : State := { s with waitReg := x }

/-! ### Control (10_state.md R34 to R36) -/

/-- `run_mode <- m`. -/
def State.setRunMode (s : State) (m : RunMode) : State := { s with runMode := m }
/-- `opcode <- w` (10_state.md R35, decision D27, log entry 16). -/
def State.setOpcode (s : State) (w : Word) : State := { s with opcode := w }

/-- TAKING A FAULT (60_exceptions.md R292, decision D2, log entry 8): `fault <- c` and nothing else. `PC` keeps the
address of the faulting instruction; control goes nowhere. There is no return from a fault (R298): only the host's
`reset` clears it (`State.hostReset`). -/
def State.raise (s : State) (c : FaultCode) : State := { s with fault := c }

/-! ### The model's own fields -/

/-- One free value has been taken (log entry 5). -/
def State.nextDraw (s : State) : State := { s with draws := s.draws + 1 }
/-- `pulse e` (00_scope.md R10; log entry 6). -/
def State.pulse (s : State) (e : Event) : State := { s with events := e :: s.events }

/-! ### Blocks of registers -/

/-- The registers in ascending order. -/
def allRegs : List Reg := [0, 1, 2, 3, 4, 5, 6, 7, 8, 9, 10, 11, 12, 13, 14, 15]

/-- The block V0..Vx in ascending order (43_index_memory.md R204, R205). -/
def regsUpTo (x : Reg) : List Reg := allRegs.take (x + 1)

end Sys2Proof.Machine
end

