-- ==== Sys2Proof/Machine/Operands.lean ====
section
/-! DEFINITION. Every operand form: addresses, jump targets, skip distances, key numbers, glyph addresses, decimal
digits, pixel coordinates and sprite bits. -/

namespace Sys2Proof.Machine

/-- `zext_16(nnn)` (30_encoding.md R92): an address field as a value of `PC` or `I`. -/
def zext16 (nnn : Addr12) : Word := nnn.setWidth 16

/-- The effective address `I + k` of byte k of an access: a natural number, not reduced (43_index_memory.md R200). -/
def State.dataAddr (s : State) (k : Nat) : Nat := s.i.toNat + k

/-- `nnn + V[0]`, not reduced to 12 bits (41_control_flow.md R157, decision D28, log entry 14). -/
def State.jumpV0Target (s : State) (nnn : Addr12) : Word := zext16 nnn + (s.getV 0).setWidth 16

/-- `PC + 4` when a skip is taken, else `PC + 2` (10_state.md R24). -/
def State.skipIf (s : State) (taken : Bool) : State := s.advance (if taken then 4 else 2)

/-- `V[x] <= 15 and key[V[x]] = 1` (45_keypad_timers.md R241): a key number above 15 counts as not pressed (decision
D6, log entry 9). -/
def State.keyPressed (s : State) (b : Byte) : Bool :=
  if h : b.toNat < 16 then s.getKey ⟨b.toNat, h⟩ else false

/-- `V[x] * 5` on the whole byte, `FONT_BASE` being 0 (43_index_memory.md R203, decision D11, log entry 14). -/
def glyphAddr (b : Byte) : Word := BitVec.ofNat 16 (b.toNat * 5)

/-- The decimal digits of a byte: hundreds, tens, units (43_index_memory.md R206). -/
def decimalDigits (b : Byte) : List Byte :=
  [BitVec.ofNat 8 (b.toNat / 100), BitVec.ofNat 8 (b.toNat / 10 % 10), BitVec.ofNat 8 (b.toNat % 10)]

/-- A vertical coordinate modulo 32 (44_display.md R220). -/
def wrapRow (r : Nat) : Fin 32 := ⟨r % 32, Nat.mod_lt r (by decide)⟩

/-- A horizontal coordinate modulo 64 (44_display.md R220). -/
def wrapCol (c : Nat) : Fin 64 := ⟨c % 64, Nat.mod_lt c (by decide)⟩

/-- `(row >> (7 - j)) & 1`: column 0 is bit 7, drawn leftmost (44_display.md R222). -/
def spriteBit (row : Byte) (j : Nat) : Bool := row.getLsbD (7 - j)

/-- The keys that are pressed, in ascending order: the set P of 40_cycle.md R124. -/
def State.pressedKeys (s : State) : List Key := allRegs.filter s.getKey

end Sys2Proof.Machine
end

