-- ==== Sys2Proof/Machine/Flags.lean ====
section
/-! DEFINITION. Every value an instruction writes to VF as a flag (the table of 10_state.md R22); the collision flag of
DRW is computed with the blit (Machine/Display.lean). -/

namespace Sys2Proof.Machine

/-- A flag as the register value 0 or 1. -/
def flagByte (b : Bool) : Byte := if b then 1 else 0

/-- `V[x] + V[y]` before reduction, 0..510 (42_alu.md R177). -/
def exactSum (a b : Byte) : Nat := a.toNat + b.toNat

/-- Carry of 8xy4: 1 if the sum exceeds 255 (42_alu.md R177). -/
def carryFlag (a b : Byte) : Byte := flagByte (decide (exactSum a b > 255))

/-- 8xy5 and 8xy7: 1 exactly when `a > b`, unsigned and strict (42_alu.md R178, R180). -/
def greaterFlag (a b : Byte) : Byte := flagByte (decide (a.toNat > b.toNat))

/-- 8xy6: the bit shifted out, `a & 1` (42_alu.md R179). -/
def lowBitFlag (a : Byte) : Byte := a &&& 1

/-- 8xyE: the bit shifted out, `(a & 0x80) >> 7` (42_alu.md R181). -/
def highBitFlag (a : Byte) : Byte := (a &&& 0x80) >>> 7

end Sys2Proof.Machine
end

