-- ==== Sys2Proof/Machine/Alu.lean ====
section
/-! DEFINITION. Register load, arithmetic, logic, shift and random instructions (42_alu.md). The statements of each
rule run in the order written, each reading the state the one before left (R170, decision D10, log entry 10). -/

namespace Sys2Proof.Machine

/-- `V[x] <- b; PC <- PC + 2`: the shape of every instruction here that writes no flag. -/
def State.loadV (s : State) (x : Reg) (b : Byte) : State := (s.setV x b).advance 2

/-- `LD Vx, kk` (R171). -/
def execLdImm (x : Reg) (kk : Byte) (s : State) : StepOutcome := .next (s.loadV x kk)

/-- `ADD Vx, kk` (R172): no flag. -/
def execAddImm (x : Reg) (kk : Byte) (s : State) : StepOutcome := .next (s.loadV x (s.getV x + kk))

/-- `LD Vx, Vy` (R173). -/
def execLdReg (x y : Reg) (s : State) : StepOutcome := .next (s.loadV x (s.getV y))

/-- `OR Vx, Vy` (R174). -/
def execOrReg (x y : Reg) (s : State) : StepOutcome := .next (s.loadV x (s.getV x ||| s.getV y))

/-- `AND Vx, Vy` (R175). -/
def execAndReg (x y : Reg) (s : State) : StepOutcome := .next (s.loadV x (s.getV x &&& s.getV y))

/-- `XOR Vx, Vy` (R176). -/
def execXorReg (x y : Reg) (s : State) : StepOutcome := .next (s.loadV x (s.getV x ^^^ s.getV y))

/-- `ADD Vx, Vy` (R177): the sum is formed before VF is written. -/
def execAddReg (x y : Reg) (s : State) : StepOutcome :=
  let sum := exactSum (s.getV x) (s.getV y)
  let s1 := s.setV vf (carryFlag (s.getV x) (s.getV y))
  .next (s1.loadV x (BitVec.ofNat 8 sum))

/-- `SUB Vx, Vy` (R178): the difference reads the registers again, after the write of VF. -/
def execSub (x y : Reg) (s : State) : StepOutcome :=
  let s1 := s.setV vf (greaterFlag (s.getV x) (s.getV y))
  .next (s1.loadV x (s1.getV x - s1.getV y))

/-- `SHR Vx` (R179): logical, by 1, of Vx; `y` is ignored. -/
def execShr (x _y : Reg) (s : State) : StepOutcome :=
  let s1 := s.setV vf (lowBitFlag (s.getV x))
  .next (s1.loadV x (s1.getV x >>> 1))

/-- `SUBN Vx, Vy` (R180). -/
def execSubn (x y : Reg) (s : State) : StepOutcome :=
  let s1 := s.setV vf (greaterFlag (s.getV y) (s.getV x))
  .next (s1.loadV x (s1.getV y - s1.getV x))

/-- `SHL Vx` (R181): by 1, of Vx; `y` is ignored. -/
def execShl (x _y : Reg) (s : State) : StepOutcome :=
  let s1 := s.setV vf (highBitFlag (s.getV x))
  .next (s1.loadV x (s1.getV x <<< 1))

/-- `RND Vx, kk` (R182): a free byte (decision D14, log entry 2). -/
def execRnd (x : Reg) (kk : Byte) (s : State) : StepOutcome :=
  .next (s.nextDraw.loadV x (Config.randomByte s.draws &&& kk))

end Sys2Proof.Machine
end

