-- ==== Sys2Proof/Machine/Control.lean ====
section
/-! DEFINITION. Control transfer instructions (41_control_flow.md). -/

namespace Sys2Proof.Machine

/-- `RET` (R151): pop the address of the call and continue after it; StackUnderflow when the stack is empty
(decision D3, log entry 8). -/
def execRet (s : State) : StepOutcome :=
  if h : s.sp.val = 0 then .next (s.raise .stackUnderflow)
  else
    have := s.sp.isLt
    let s1 := s.setSp ⟨s.sp.val - 1, by omega⟩
    let s2 := s1.setPc s1.stack[s.sp.val - 1]
    .next (s2.advance 2)

/-- `JP nnn` (R152). -/
def execJp (nnn : Addr12) (s : State) : StepOutcome := .next (s.setPc (zext16 nnn))

/-- `CALL nnn` (R153): push the address of the call itself; StackOverflow when the stack is full (decision D3, log
entry 8). -/
def execCall (nnn : Addr12) (s : State) : StepOutcome :=
  if h : s.sp.val = 16 then .next (s.raise .stackOverflow)
  else
    have := s.sp.isLt
    let s1 := s.setSlot ⟨s.sp.val, by omega⟩ s.pc
    let s2 := s1.setSp ⟨s.sp.val + 1, by omega⟩
    .next (s2.setPc (zext16 nnn))

/-- `SE Vx, kk` (R154). -/
def execSeImm (x : Reg) (kk : Byte) (s : State) : StepOutcome := .next (s.skipIf (s.getV x == kk))

/-- `SNE Vx, kk` (R155). -/
def execSneImm (x : Reg) (kk : Byte) (s : State) : StepOutcome := .next (s.skipIf (s.getV x != kk))

/-- `SE Vx, Vy` (R156). -/
def execSeReg (x y : Reg) (s : State) : StepOutcome := .next (s.skipIf (s.getV x == s.getV y))

/-- `SNE Vx, Vy` (R158). -/
def execSneReg (x y : Reg) (s : State) : StepOutcome := .next (s.skipIf (s.getV x != s.getV y))

/-- `JP V0, nnn` (R157). -/
def execJpV0 (nnn : Addr12) (s : State) : StepOutcome := .next (s.setPc (s.jumpV0Target nnn))

end Sys2Proof.Machine
end

