-- ==== Sys2Proof/Machine/Display.lean ====
section
/-! DEFINITION. Display instructions (44_display.md). -/

namespace Sys2Proof.Machine

/-- The display and the collision flag while a sprite is drawn. -/
structure Blit where
  disp : Display
  collision : Bool
  deriving DecidableEq, Repr

/-- One sprite bit at one pixel: a 1 toggles it and collides if it was 1; a 0 leaves it alone (R222, R223 c). -/
def Blit.plot (b : Blit) (bit : Bool) (r : Fin 32) (c : Fin 64) : Blit :=
  if bit then ⟨b.disp.toggle r c, b.collision || b.disp.pixel r c⟩ else b

/-- The first `j` columns of a sprite row, left to right. -/
def Blit.plotCols (b : Blit) (row : Byte) (vx : Nat) (r : Fin 32) : Nat → Blit
  | 0 => b
  | j + 1 => (b.plotCols row vx r j).plot (spriteBit row j) r (wrapCol (vx + j))

/-- The first `i` rows of the sprite at `base`, top to bottom, 8 columns each (R222). -/
def Blit.plotRows (b : Blit) (m : Memory) (base vx vy : Nat) : Nat → Blit
  | 0 => b
  | i + 1 => (b.plotRows m base vx vy i).plotCols (m.read (base + i)) vx (wrapRow (vy + i)) 8

/-- The whole sprite-blit of R222: collision starts at 0. -/
def State.blit (s : State) (x y : Reg) (n : Nibble) : Blit :=
  (Blit.mk s.disp false).plotRows s.mem (s.dataAddr 0) (s.getV x).toNat (s.getV y).toNat n.toNat

/-- Some sprite row would be read at 4096 or beyond: `n > 0 and I + n - 1 >= 4096` (R222). -/
def State.spriteOutOfRange (s : State) (n : Nibble) : Bool :=
  decide (n.toNat > 0 ∧ s.dataAddr (n.toNat - 1) ≥ Config.memSize)

/-- `CLS` (R221). -/
def execCls (s : State) : StepOutcome := .next (((s.setDisp Display.clear).setRedraw true).advance 2)

/-- `DRW Vx, Vy, n` (R222): coordinates are read before VF is written (R223 g, decision D18, log entry 10);
AddressOutOfRange before any pixel changes (decision D4, log entry 8). -/
def execDrw (x y : Reg) (n : Nibble) (s : State) : StepOutcome :=
  if s.spriteOutOfRange n then .next (s.raise .addressOutOfRange)
  else
    let b := s.blit x y n
    .next ((((s.setDisp b.disp).setV vf (flagByte b.collision)).setRedraw true).advance 2)

end Sys2Proof.Machine
end

