-- ==== Sys2Proof/Machine/IndexMemory.lean ====
section
/-! DEFINITION. Index register and memory instructions (43_index_memory.md). None of them changes `I` as a base
(R200). -/

namespace Sys2Proof.Machine

/-- `LD I, nnn` (R201). -/
def execLdI (nnn : Addr12) (s : State) : StepOutcome := .next ((s.setI (zext16 nnn)).advance 2)

/-- `ADD I, Vx` (R202): modulo 65536, no flag (decision D11, log entry 14). -/
def execAddI (x : Reg) (s : State) : StepOutcome := .next ((s.setI (s.i + (s.getV x).setWidth 16)).advance 2)

/-- `LD F, Vx` (R203). -/
def execLdF (x : Reg) (s : State) : StepOutcome := .next ((s.setI (glyphAddr (s.getV x))).advance 2)

/-- The bytes stored from `I` upward, each dropped at 4096 and beyond, then `PC <- PC + 2`. -/
def State.storeBytes (s : State) (bs : List Byte) : State :=
  (s.setMem (s.mem.writeBytes (s.dataAddr 0) bs)).advance 2

/-- `LD B, Vx` (R206). -/
def execLdB (x : Reg) (s : State) : StepOutcome := .next (s.storeBytes (decimalDigits (s.getV x)))

/-- `LD [I], Vx` (R204): V0..Vx. -/
def execLdMemVx (x : Reg) (s : State) : StepOutcome := .next (s.storeBytes ((regsUpTo x).map s.getV))

/-- `V[k] <- MemRead(I + k, 1)` for the registers of a list, in its order. -/
def State.loadBlock (s : State) : List Reg → State
  | [] => s
  | k :: ks => (s.setV k (s.mem.read (s.dataAddr k))).loadBlock ks

/-- `LD Vx, [I]` (R205): AddressOutOfRange, before any register is written, when the last address is 4096 or more
(decisions D4, D18, log entry 8). -/
def execLdVxMem (x : Reg) (s : State) : StepOutcome :=
  if s.dataAddr x ≥ Config.memSize then .next (s.raise .addressOutOfRange)
  else .next ((s.loadBlock (regsUpTo x)).advance 2)

end Sys2Proof.Machine
end

