-- ==== Sys2Proof/Machine/KeypadTimers.lean ====
section
/-! DEFINITION. Keypad and timer instructions (45_keypad_timers.md). -/

namespace Sys2Proof.Machine

/-- `SKP Vx` (R241). -/
def execSkp (x : Reg) (s : State) : StepOutcome := .next (s.skipIf (s.keyPressed (s.getV x)))

/-- `SKNP Vx` (R242). -/
def execSknp (x : Reg) (s : State) : StepOutcome := .next (s.skipIf (!s.keyPressed (s.getV x)))

/-- `LD Vx, DT` (R244): the value before this cycle's tick. -/
def execLdVxDt (x : Reg) (s : State) : StepOutcome := .next ((s.setV x s.dt).advance 2)

/-- `LD Vx, K` (R243), first half: enter the key-wait; `PC` and `V[x]` unchanged. The second half is the key-wait
service (40_cycle.md R124). -/
def execLdVxK (x : Reg) (s : State) : StepOutcome := .next ((s.setWaiting true).setWaitReg x)

/-- `LD DT, Vx` (R245). -/
def execLdDtVx (x : Reg) (s : State) : StepOutcome := .next ((s.setDt (s.getV x)).advance 2)

/-- `LD ST, Vx` (R246). -/
def execLdStVx (x : Reg) (s : State) : StepOutcome := .next ((s.setSt (s.getV x)).advance 2)

end Sys2Proof.Machine
end

