-- ==== Sys2Proof/Machine/Cycle.lean ====
section
/-! DEFINITION. The instruction cycle controller `runCycle` (40_cycle.md R120 to R128). -/

namespace Sys2Proof.Machine

/-- The fetch of R123: the word at `PC`, high byte first, or nothing when `PC + 1` is 4096 or more (decision D4,
log entry 8). It reads `mem` directly (20_memory.md R72) and changes nothing. -/
def State.fetchWord (s : State) : Option Word :=
  if s.pc.toNat + 1 ≥ Config.memSize then none
  else some (wordOfBytes (s.mem.read s.pc.toNat) (s.mem.read (s.pc.toNat + 1)))

/-- A timer goes down by one and stops at 0 (R127). -/
def tickDown (b : Byte) : Byte := if b = 0 then 0 else b - 1

/-- The timer tick of R127: each timer down by one if above 0, `tone` pulsed when `ST` goes from 1 to 0. The
timers are independent (10_state.md R27). -/
def State.timerTick (s : State) : State :=
  let s1 := s.setDt (tickDown s.dt)
  let s2 := if s.st = 1 then s1.pulse .tone else s1
  s2.setSt (tickDown s.st)

/-- The key-wait ends with key k (R124): `V[wait_reg] <- k; waiting <- 0; PC <- PC + 2`. -/
def State.resolveKeyWait (s : State) (k : Key) : State :=
  ((s.setV s.waitReg (BitVec.ofNat 8 k.val)).setWaiting false).advance 2

/-- The key-wait service of R124: no key pressed, nothing changes; one, that key; several, any of them, as a draw
(decision D9, log entry 3). No timer tick (decision D15, log entry 12). -/
def State.keyWaitService (s : State) : State :=
  match s.pressedKeys with
  | [] => s
  | [k] => s.resolveKeyWait k
  | k :: ks => s.nextDraw.resolveKeyWait ((k :: ks).getD (Config.keyChoice s.draws % (k :: ks).length) k)

/-- An unknown opcode (R128): report it and go on. -/
def execUnknown (w : Word) (s : State) : StepOutcome := .next ((s.pulse (.unknownOpcode w)).advance 2)

/-- Exactly one rule is performed (R125): the instruction the word is, or the unknown opcode. -/
def executeWord (w : Word) (s : State) : StepOutcome :=
  match decodeWord w with
  | .ok i => exec i s
  | .error _ => execUnknown w s

/-- A function on the next state of an outcome. -/
def mapNext (f : State → State) : StepOutcome → StepOutcome
  | .next s => .next (f s)
  | .fault r => .fault r
  | .refused r => .refused r

/-- The end of a cycle that executed: the tick, unless the rule raised a fault (R126, R127). -/
def State.tickUnlessFaulted (s : State) : State := if s.fault = .none then s.timerTick else s

/-- A cycle that passed the two gates (R120): fetch, then key-wait service or execute and tick. -/
def cycleBody (s : State) : StepOutcome :=
  match s.fetchWord with
  | none => .next (s.raise .addressOutOfRange)
  | some w =>
    if s.waiting then .next (s.setOpcode w).keyWaitService
    else mapNext State.tickUnlessFaulted (executeWord w (s.setOpcode w))

/-- One `runCycle` (R120, R121): skipped when faulted or paused; a single step ends in Paused. -/
def runCycle (s : State) : StepOutcome :=
  if s.fault = .none then
    match s.runMode with
    | .paused => .next s
    | .running => cycleBody s
    | .singleStepPending => mapNext (·.setRunMode .paused) (cycleBody s)
  else .next s

end Sys2Proof.Machine
end

