-- ==== Sys2Proof/Machine/HostInterface.lean ====
section
/-! DEFINITION. The host's transactions and what the host can see (47_host_interface.md). Each is accepted in every
state and cannot fail (R260); the model offers them only between cycles (R276, log entry 15). -/

namespace Sys2Proof.Machine

/-- `load(bytes)` (R262): from 0x200 upward, dropped at 4096 and beyond; nothing else changes. -/
def State.load (s : State) (bytes : List Byte) : State := s.setMem (s.mem.writeBytes Config.programBase bytes)

/-- `keyDown(k)` (R263). -/
def State.keyDown (s : State) (k : Key) : State := (s.setKey k true).setLastKey k

/-- `keyUp(k)` (R264). -/
def State.keyUp (s : State) (k : Key) : State := s.setKey k false

/-- `reset()` (R265, 70_reset_and_hazards.md R320): every element of the spec's at its reset value, `redraw` a new
draw. The model's own two fields go on: a reset takes one draw and pulses no event (log entries 4 to 6). -/
def State.hostReset (s : State) : State :=
  { State.reset with redraw := Config.resetRedraw s.draws, draws := s.draws + 1, events := s.events }

/-- `pause()` (R267): a pending single step survives (decision D16, log entry 13). -/
def State.pause (s : State) : State := if s.runMode = .running then s.setRunMode .paused else s

/-- `resume()` (R268). -/
def State.resume (s : State) : State := s.setRunMode .running

/-- `singleStep()` (R269): only from Paused, and requests do not accumulate (decision D16, log entry 13). -/
def State.singleStep (s : State) : State := if s.runMode = .paused then s.setRunMode .singleStepPending else s

/-- `ackRedraw()` (R270). -/
def State.ackRedraw (s : State) : State := s.setRedraw false

/-- The host's transactions that write (R260). -/
inductive HostMove where
  | load (bytes : List Byte)
  | keyDown (k : Key)
  | keyUp (k : Key)
  | reset
  | pause
  | resume
  | singleStep
  | ackRedraw
  deriving DecidableEq, Repr

/-- The effect of a host transaction. -/
def hostMove : HostMove → State → State
  | .load bytes, s => s.load bytes
  | .keyDown k, s => s.keyDown k
  | .keyUp k, s => s.keyUp k
  | .reset, s => s.hostReset
  | .pause, s => s.pause
  | .resume, s => s.resume
  | .singleStep, s => s.singleStep
  | .ackRedraw, s => s.ackRedraw

/-- Any transaction of either agent (00_scope.md R13). -/
inductive Transaction where
  | runCycle
  | host (m : HostMove)
  deriving DecidableEq, Repr

/-- One transaction. -/
def transact : Transaction → State → StepOutcome
  | .runCycle, s => runCycle s
  | .host m, s => .next (hostMove m s)

/-- A sequence of transactions in the order the host chooses (R277), stopping at an outcome that is no next state. -/
def transactAll : List Transaction → State → StepOutcome
  | [], s => .next s
  | t :: ts, s =>
    match transact t s with
    | .next s' => transactAll ts s'
    | .fault r => .fault r
    | .refused r => .refused r

/-- The readable snapshot (R271) with the fault code (R272). The host sees nothing else (R273), beside the event
pulses. Every byte is readable through `Memory.read`. -/
structure Snapshot where
  disp : Display
  redraw : Bool
  pc : Word
  mem : Memory
  opcode : Word
  fault : FaultCode
  deriving DecidableEq, Repr

/-- What the host reads between cycles (R271, R272); reading has no effect on the core. -/
def State.snapshot (s : State) : Snapshot := ⟨s.disp, s.redraw, s.pc, s.mem, s.opcode, s.fault⟩

/-- The numeric code of a fault (60_exceptions.md R291). -/
def FaultCode.code : FaultCode → Nat
  | .none => 0
  | .stackOverflow => 1
  | .stackUnderflow => 2
  | .addressOutOfRange => 3

end Sys2Proof.Machine
end

