-- ==== Sys2Proof/Machine/Step.lean ====
section
/-! DEFINITION. One step of the machine is one `runCycle` (00_scope.md R13, 40_cycle.md R120). -/

namespace Sys2Proof.Machine

/-- One `runCycle`. It always answers a next state: faults are values of the state (60_exceptions.md R292). -/
def step (s : State) : Host.Outcome State Fault Refusal := runCycle s

/-- The state in which the very next step fetches and runs the given word: the word lies at `PC`, high byte first, and
the gates before the fetch are open (no latched fault, not paused, not awaiting a key, `PC` fetchable). Where a gate
is open already, as after reset, nothing but the two bytes changes. It stands for the host's `load` of a program (log
entry 17). -/
def State.withFetchWord (s : State) (nbits w : Nat) : State :=
  let word : Word := BitVec.ofNat 16 (w % 2 ^ nbits)
  let pc := if s.pc.toNat + 1 ≥ Config.memSize then Config.resetPc else s.pc
  { s with
    pc := pc
    mem := s.mem.writeBytes pc.toNat [word.hiByte, word.loByte]
    fault := .none
    waiting := false
    runMode := if s.runMode = .paused then .running else s.runMode }

end Sys2Proof.Machine
end

