-- ==== Sys2Proof/Safety.lean ====
section
/-! DEFINITION. What counts as a safe run, in the terms the claims use: the invariant of reachable states, what a
cycle executes, and what a transition leaves unchanged. -/

namespace Sys2Proof.Machine

/-! ### The invariant (10_state.md R41) -/

/-- Every slot in use holds at most 0x0FFE, the bound R41 derives from what it says of a slot: that its value was the
`PC` of a fetched CALL. -/
def State.StackHoldsCallAddresses (s : State) : Prop := ∀ k : Fin 16, k.val < s.sp.val → s.stack[k].toNat ≤ 0x0FFE

/-- The invariant: memory is in its canonical form (the model's choice, log entry 1) and the slots in use hold at most
0x0FFE (R41). R41's `0 <= SP <= 16` is the type of the field. -/
structure State.Inv (s : State) : Prop where
  memory : s.mem.wf
  stack : s.StackHoldsCallAddresses

/-- A state that some sequence of transactions reaches from power-on (00_scope.md R13, 47_host_interface.md R277). -/
def State.Reachable (s : State) : Prop := ∃ ts, transactAll ts State.reset = .next s

/-- A run is safe when no reachable cycle has latched a fault. -/
def State.Safe (s : State) : Prop := s.fault = .none

/-! ### What a cycle does (40_cycle.md R129) -/

/-- The next cycle passes both gates (40_cycle.md R120, R121). -/
def State.gatesOpen (s : State) : Bool := decide (s.fault = .none) && decide (s.runMode ≠ .paused)

/-- The word the next cycle executes, if it is an instruction or unknown-opcode cycle. -/
def State.executingWord (s : State) : Option Word :=
  if s.gatesOpen && !s.waiting then s.fetchWord else none

/-- The instruction the next cycle executes, if it executes one. -/
def State.executing (s : State) : Option Instr :=
  s.executingWord.bind fun w => (decodeWord w).toOption

/-- The run mode a cycle that passes the gates leaves (40_cycle.md R121). -/
def State.endCycle (s0 s : State) : State := if s0.runMode = .singleStepPending then s.setRunMode .paused else s

/-! ### Frames -/

/-- The elements of the state: the spec's (10_state.md R20) and the model's own two. -/
inductive Elem where
  | v | i | pc | sp | stack | dt | st | mem | disp | redraw | key | lastKey | waiting | waitReg | runMode | opcode | fault
  | draws | events
  deriving DecidableEq, Repr

/-- The element holds the same in both states: for memory every byte reads the same, for registers, slots, pixels and
keys every one. -/
def SameElem (s t : State) : Elem → Prop
  | .v => ∀ x, t.getV x = s.getV x
  | .i => t.i = s.i
  | .pc => t.pc = s.pc
  | .sp => t.sp = s.sp
  | .stack => ∀ k : Fin 16, t.stack[k] = s.stack[k]
  | .dt => t.dt = s.dt
  | .st => t.st = s.st
  | .mem => ∀ a, t.mem.read a = s.mem.read a
  | .disp => ∀ r c, t.disp.pixel r c = s.disp.pixel r c
  | .redraw => t.redraw = s.redraw
  | .key => ∀ k, t.getKey k = s.getKey k
  | .lastKey => t.lastKey = s.lastKey
  | .waiting => t.waiting = s.waiting
  | .waitReg => t.waitReg = s.waitReg
  | .runMode => t.runMode = s.runMode
  | .opcode => t.opcode = s.opcode
  | .fault => t.fault = s.fault
  | .draws => t.draws = s.draws
  | .events => t.events = s.events

/-- Every element but those listed is unchanged. -/
def UnchangedExcept (changed : List Elem) (s t : State) : Prop := ∀ e, e ∉ changed → SameElem s t e

/-- An outcome is a next state, and that state has the property. -/
def Answers (o : StepOutcome) (P : State → Prop) : Prop := ∃ t, o = .next t ∧ P t

/-- What an instruction may write when it completes (the writers of 10_state.md R22 to R36 and R40), beside a fault
code. -/
def mayWrite : Instr → List Elem
  | .cls => [.disp, .redraw, .pc]
  | .ret => [.sp, .pc]
  | .call _ => [.stack, .sp, .pc]
  | .jp _ | .jpV0 _ | .seImm _ _ | .sneImm _ _ | .seReg _ _ | .sneReg _ _ | .skp _ | .sknp _ => [.pc]
  | .ldImm _ _ | .addImm _ _ | .ldReg _ _ | .orReg _ _ | .andReg _ _ | .xorReg _ _ | .addReg _ _ | .sub _ _ | .shr _ _
  | .subn _ _ | .shl _ _ | .ldVxDt _ | .ldVxMem _ => [.v, .pc]
  | .rnd _ _ => [.v, .pc, .draws]
  | .ldI _ | .addI _ | .ldF _ => [.i, .pc]
  | .drw _ _ _ => [.disp, .v, .redraw, .pc]
  | .ldVxK _ => [.waiting, .waitReg]
  | .ldDtVx _ => [.dt, .pc]
  | .ldStVx _ => [.st, .pc]
  | .ldB _ | .ldMemVx _ => [.mem, .pc]

/-! ### Sprites (44_display.md R222) -/

/-- Some 1 bit of the sprite that `DRW Vx, Vy, n` draws lands on pixel (r, c). -/
def SpriteSets (s : State) (x y : Reg) (n : Nibble) (r : Fin 32) (c : Fin 64) : Prop :=
  ∃ i j : Nat, i < n.toNat ∧ j < 8 ∧ ((s.getV y).toNat + i) % 32 = r.val ∧ ((s.getV x).toNat + j) % 64 = c.val ∧
    (s.mem.read (s.i.toNat + i)).getLsbD (7 - j) = true

end Sys2Proof.Machine
end

