-- ==== Sys2Proof/Certificates/Slice0/Obligations.lean ====
section
/-! DEFINITION. The statements for the provers. Where a docstring says "the spec's own decision", the spec marks the
point as decided or derived by itself, not as stated by its source; such a statement has basis 'derived'. Every frame
(`UnchangedExcept`) covers the model's own fields `draws` and `events` too (log entries 5 and 6, DESIGN CHOICE). -/

open Sys2Proof Sys2Proof.Machine

/-! ### Encoding (30_encoding.md) -/

/-- Every instruction, with every operand at every value its field admits, decodes back from its word and from its two
bytes, whatever bytes follow; no bit of an encoding is dropped. 30_encoding.md sections 1 to 4. -/
def Obligations.DecodeOfEncodeIsIdentity : Prop :=
  ∀ (i : Instr) (rest : List Byte),
    i.wellFormed = true ∧ decodeWord (encode i) = .ok i ∧ decodeBytes (encodeBytes i ++ rest) = .ok (i, rest)

/-- Each word is the encoding of the one instruction it decodes to. 30_encoding.md sections 1 to 4. -/
def Obligations.EncodeOfDecodeIsIdentity : Prop :=
  ∀ (w : Word) (i : Instr), decodeWord w = .ok i → encode i = w

/-- The decoder is total and is the exact match of the opcode table: a word decodes to an instruction exactly when
some row's `w & mask = match` holds, the row is the instruction's own, no word matches two rows, and every other word
is rejected by name. 30_encoding.md sections 3 to 5; exact match is the spec's own decision D17. -/
def Obligations.DecodingIsExactMatchOfTheTable : Prop :=
  (∀ (w : Word) (i : Instr), decodeWord w = .ok i → i.row.covers w = true) ∧
  (∀ (w : Word) (r : Row), r ∈ opcodeTable → r.covers w = true → ∃ i, decodeWord w = .ok i ∧ i.row = r) ∧
  (∀ (w : Word) (r1 r2 : Row), r1 ∈ opcodeTable → r2 ∈ opcodeTable → r1.covers w = true → r2.covers w = true →
    r1 = r2) ∧
  (∀ w : Word, (∃ i, decodeWord w = .ok i) ∨ decodeWord w = .error (.unknownOpcode w))

/-- Words written out bit by bit from the pattern column decode to what they stand for; words of 95_test_vectors.md
part 4 that match no row are unknown. -/
def Obligations.WrittenOutWordsDecode : Prop :=
  decodeWord 0b0000000011100000#16 = .ok .cls ∧
  decodeWord 0b0000000011101110#16 = .ok .ret ∧
  decodeWord 0b0001001000110100#16 = .ok (.jp 0x234) ∧
  decodeWord 0b0011101000010010#16 = .ok (.seImm 0xA 0x12) ∧
  decodeWord 0b1000101010110101#16 = .ok (.sub 0xA 0xB) ∧
  decodeWord 0b1010000100100011#16 = .ok (.ldI 0x123) ∧
  decodeWord 0b1101000100101111#16 = .ok (.drw 1 2 15) ∧
  decodeWord 0b1110010110100001#16 = .ok (.sknp 5) ∧
  decodeWord 0b1111010100110011#16 = .ok (.ldB 5) ∧
  decodeWord 0b0101101010110001#16 = .error (.unknownOpcode 0x5AB1) ∧
  decodeWord 0b1111010101110101#16 = .error (.unknownOpcode 0xF575)

/-! ### The cycle (40_cycle.md) -/

/-- Decode and execute: when the gates are open and no key is awaited, the step performs exactly one rule, the meaning
of the instruction the fetched word decodes to, or the unknown-opcode rule, on the state whose `opcode` is that word;
around it stand the timer tick and the end of a single step. 40_cycle.md sections 1 and 4; that a rule which raised a
fault is followed by no tick is the spec's own decision D2. -/
def Obligations.StepPerformsTheDecodedInstruction : Prop :=
  ∀ (s : State) (w : Word), s.fault = .none → s.runMode ≠ .paused → s.waiting = false → s.fetchWord = some w →
    (∀ i, decodeWord w = .ok i →
      step s = mapNext s.endCycle (mapNext State.tickUnlessFaulted (exec i (s.setOpcode w)))) ∧
    (∀ r, decodeWord w = .error r →
      step s = mapNext s.endCycle (mapNext State.tickUnlessFaulted (execUnknown w (s.setOpcode w))))

/-- Fetch combines the two bytes at `PC` and `PC + 1` big-endian, at odd addresses as at even ones, and fails only
when `PC + 1` is 4096 or more. 20_memory.md section 3; the bound is the spec's own decision D4. -/
def Obligations.FetchIsBigEndianAtAnyAddress : Prop :=
  ∀ s : State,
    (s.pc.toNat + 1 < 4096 → ∃ w, s.fetchWord = some w ∧
      w.toNat = (s.mem.read s.pc.toNat).toNat * 256 + (s.mem.read (s.pc.toNat + 1)).toNat) ∧
    (4096 ≤ s.pc.toNat + 1 → s.fetchWord = none)

/-- Once `fault` is not None, any number of cycles changes nothing at all. 40_cycle.md section 1, the spec's own
decision D2. -/
def Obligations.LatchedFaultHaltsTheCore : Prop :=
  ∀ (s : State) (n : Nat), s.fault ≠ .none → core.run n s = .next s

/-- The pause gate: a paused core does nothing; a running one stays running; a single step buys one cycle of whatever
kind and ends in Paused. 40_cycle.md section 1; that a service cycle or a fault consumes the step is the spec's own
decision D26. -/
def Obligations.RunModeGatesTheCycle : Prop :=
  ∀ s : State, s.fault = .none →
    Answers (step s) fun t =>
      (s.runMode = .paused → t = s) ∧ (s.runMode = .running → t.runMode = .running) ∧
      (s.runMode = .singleStepPending → t.runMode = .paused)

/-- A stepped cycle of a machine that is not faulted is the running cycle, then Paused. 60_exceptions.md section 9. -/
def Obligations.SteppedCycleIsARunningCycle : Prop :=
  ∀ s : State, s.fault = .none → s.runMode = .running →
    step (s.setRunMode .singleStepPending) = mapNext (·.setRunMode .paused) (step s)

/-- A fetch at 0xFFF or above latches AddressOutOfRange and changes nothing else: `opcode`, `PC` and the timers stay.
40_cycle.md section 2, the spec's own decision D4. -/
def Obligations.UnfetchablePcLatchesAddressOutOfRange : Prop :=
  ∀ s : State, s.fault = .none → s.runMode ≠ .paused → 0xFFF ≤ s.pc.toNat →
    Answers (step s) fun t =>
      t.fault = .addressOutOfRange ∧ UnchangedExcept [.fault, .runMode] s t

/-- Key-wait with no key pressed: only `opcode` is rewritten; the timers do not tick. 40_cycle.md section 3; no tick
is the spec's own decision D15. -/
def Obligations.KeyWaitWithoutKeyOnlyRefetches : Prop :=
  ∀ (s : State) (w : Word), s.fault = .none → s.runMode ≠ .paused → s.waiting = true → s.fetchWord = some w →
    (∀ k, s.getKey k = false) →
    Answers (step s) fun t => t.opcode = w ∧ UnchangedExcept [.opcode, .runMode] s t

/-- Key-wait with a key pressed: the target register receives the number of a pressed key, the wait ends, `PC`
advances by 2, the timers do not tick; with exactly one key pressed it is that key, and the counter `draws` stays.
40_cycle.md section 3; the draw among several keys and the missing tick are the spec's own decisions D9 and D15. That
one key takes no draw from the counter is a claim about the model's own field (log entries 3 and 5, DESIGN CHOICE). -/
def Obligations.KeyWaitStoresAPressedKey : Prop :=
  ∀ (s : State) (w : Word), s.fault = .none → s.runMode ≠ .paused → s.waiting = true → s.fetchWord = some w →
    (∃ k, s.getKey k = true) →
    Answers (step s) fun t =>
      (∃ k, s.getKey k = true ∧ (t.getV s.waitReg).toNat = k.val ∧
        ∀ k0, (∀ j, s.getKey j = true ↔ j = k0) → k = k0 ∧ t.draws = s.draws) ∧
      (∀ y, y ≠ s.waitReg → t.getV y = s.getV y) ∧ t.waiting = false ∧ t.pc = s.pc + 2 ∧ t.opcode = w ∧
      UnchangedExcept [.v, .waiting, .pc, .opcode, .runMode, .draws] s t

/-- An unknown opcode reports itself, advances `PC` by 2 and ticks the timers, with `tone` pulsed when the sound timer
goes from 1 to 0; nothing else changes and no fault is raised. 40_cycle.md section 4; the tick and the event are the
spec's own decision D23. That the list `events` grows at its head, with `tone` as the later of the two pulses, is the
model's choice (log entry 6, DESIGN CHOICE). -/
def Obligations.UnknownOpcodeIsAReportedNoOp : Prop :=
  ∀ (s : State) (w : Word), s.fault = .none → s.runMode ≠ .paused → s.waiting = false → s.fetchWord = some w →
    (∀ i, decodeWord w ≠ .ok i) →
    Answers (step s) fun t =>
      t.pc = s.pc + 2 ∧ t.opcode = w ∧ t.dt.toNat = s.dt.toNat - 1 ∧ t.st.toNat = s.st.toNat - 1 ∧
      t.events = (if s.st = 1 then [.tone, .unknownOpcode w] else [.unknownOpcode w]) ++ s.events ∧
      UnchangedExcept [.pc, .opcode, .dt, .st, .events, .runMode] s t

/-- After an instruction that raises no fault each timer is one lower than the instruction left it, never below 0, and
`tone` is pulsed exactly when the sound timer goes from 1 to 0. 40_cycle.md section 4, the order instruction then
tick being derived there. That the pulse stands at the head of the list `events` is the model's choice (log entry 6,
DESIGN CHOICE). -/
def Obligations.TimersTickAfterTheInstruction : Prop :=
  ∀ (s u : State) (w : Word) (i : Instr), s.executingWord = some w → decodeWord w = .ok i →
    exec i (s.setOpcode w) = .next u → u.fault = .none →
    Answers (step s) fun t =>
      t.dt.toNat = u.dt.toNat - 1 ∧ t.st.toNat = u.st.toNat - 1 ∧
      t.events = (if u.st = 1 then .tone :: u.events else u.events) ∧
      UnchangedExcept [.dt, .st, .events, .runMode] u t

/-- Every cycle answers a next state and is one of the eight kinds of the table of 40_cycle.md section 5, each with
the elements it may change. The table is derived by the spec. -/
def Obligations.EveryCycleIsOneOfTheKinds : Prop :=
  ∀ s : State, Answers (step s) fun t =>
    (s.fault ≠ .none ∧ t = s) ∨
    (s.fault = .none ∧ s.runMode = .paused ∧ t = s) ∨
    (s.gatesOpen = true ∧ s.fetchWord = none ∧ t.fault = .addressOutOfRange ∧
      UnchangedExcept [.fault, .runMode] s t) ∨
    (∃ w, s.gatesOpen = true ∧ s.fetchWord = some w ∧ t.opcode = w ∧
      ((s.waiting = true ∧ (∀ k, s.getKey k = false) ∧ UnchangedExcept [.opcode, .runMode] s t) ∨
       (s.waiting = true ∧ (∃ k, s.getKey k = true) ∧ t.waiting = false ∧
        UnchangedExcept [.v, .waiting, .pc, .opcode, .runMode, .draws] s t) ∨
       (∃ i, s.waiting = false ∧ decodeWord w = .ok i ∧ t.fault = .none ∧
        UnchangedExcept (mayWrite i ++ [.opcode, .dt, .st, .events, .runMode]) s t) ∨
       (s.waiting = false ∧ decodeWord w = .error (.unknownOpcode w) ∧ t.pc = s.pc + 2 ∧
        UnchangedExcept [.pc, .opcode, .dt, .st, .events, .runMode] s t) ∨
       (∃ i, s.waiting = false ∧ decodeWord w = .ok i ∧ t.fault ≠ .none ∧
        UnchangedExcept [.fault, .opcode, .runMode] s t)))

/-! ### Whole-machine rules -/

/-- From every state that meets the invariant, a step leads to one that meets it: memory keeps its canonical form, and
every used stack slot holds at most 0x0FFE. The bound on the slots is derived in 10_state.md section 9; the canonical
form is the model's choice (log entry 1, DESIGN CHOICE). -/
def Obligations.StepKeepsTheInvariant : Prop :=
  ∀ s t : State, s.Inv → step s = .next t → t.Inv

/-- The state after power-on meets the invariant: memory is canonical, every used stack slot holds at most 0x0FFE.
10_state.md sections 8 and 9; the canonical form is the model's choice (log entry 1, DESIGN CHOICE). -/
def Obligations.ResetStateMeetsTheInvariant : Prop := State.reset.Inv

/-- Every host transaction keeps the invariant: memory is canonical, every used stack slot holds at most 0x0FFE.
10_state.md section 9; the canonical form is the model's choice (log entry 1, DESIGN CHOICE). -/
def Obligations.HostTransactionsKeepTheInvariant : Prop :=
  ∀ (m : HostMove) (s : State), s.Inv → (hostMove m s).Inv

/-- Under every interleaving of cycles and host transactions from power-on: no transaction stops the machine, and
the state reached meets the invariant (canonical memory, used stack slots at most 0x0FFE). 10_state.md section 9,
47_host_interface.md sections 1 and 9; the canonical form is the model's choice (log entry 1, DESIGN CHOICE). -/
def Obligations.EveryScheduleReachesAStateOfTheInvariant : Prop :=
  ∀ ts : List Transaction, Answers (transactAll ts State.reset) State.Inv

/-- The display changes only in a cycle that executes 00E0 or Dxyn. 10_state.md section 9 (derived there). -/
def Obligations.OnlyClsAndDrwChangeTheDisplay : Prop :=
  ∀ s t : State, step s = .next t → t.disp ≠ s.disp →
    s.executing = some .cls ∨ ∃ x y n, s.executing = some (.drw x y n)

/-- Memory changes only in a cycle that executes Fx33 or Fx55, and `I` only in one that executes Annn, Fx1E or Fx29.
10_state.md sections 3 and 9 (derived there). -/
def Obligations.OnlyTheirWritersChangeMemoryAndI : Prop :=
  ∀ s t : State, step s = .next t →
    ((∃ a, t.mem.read a ≠ s.mem.read a) → ∃ x, s.executing = some (.ldB x) ∨ s.executing = some (.ldMemVx x)) ∧
    (t.i ≠ s.i →
      (∃ nnn, s.executing = some (.ldI nnn)) ∨ ∃ x, s.executing = some (.addI x) ∨ s.executing = some (.ldF x))

/-- The stack changes only in a cycle that executes 2nnn, `SP` only in one that executes 2nnn or 00EE, and no cycle
writes the keypad latch. 10_state.md sections 3, 5 and 9. -/
def Obligations.OnlyCallAndRetTouchTheStack : Prop :=
  ∀ s t : State, step s = .next t →
    (t.stack ≠ s.stack → ∃ nnn, s.executing = some (.call nnn)) ∧
    (t.sp ≠ s.sp → s.executing = some .ret ∨ ∃ nnn, s.executing = some (.call nnn)) ∧
    t.key = s.key ∧ t.lastKey = s.lastKey

/-- A timer rises in a cycle only by Fx15 (`DT`) or Fx18 (`ST`). 10_state.md section 9 (derived there). -/
def Obligations.TimersRiseOnlyByTheirLoads : Prop :=
  ∀ s t : State, step s = .next t →
    (s.dt.toNat < t.dt.toNat → ∃ x, s.executing = some (.ldDtVx x)) ∧
    (s.st.toNat < t.st.toNat → ∃ x, s.executing = some (.ldStVx x))

/-- A cycle latches a fault exactly in the cases of 60_exceptions.md section 2, and then changes nothing but `fault`,
`opcode` (when the fetch succeeded) and the run mode. The spec's own decisions D2 to D4. -/
def Obligations.FaultsAreExactlyTheListedOnesAndPrecise : Prop :=
  ∀ s : State, s.fault = .none → Answers (step s) fun t =>
    (t.fault = .stackOverflow ↔ (∃ nnn, s.executing = some (.call nnn)) ∧ s.sp.val = 16) ∧
    (t.fault = .stackUnderflow ↔ s.executing = some .ret ∧ s.sp.val = 0) ∧
    (t.fault = .addressOutOfRange ↔
      (s.gatesOpen = true ∧ s.fetchWord = none) ∨
      (∃ x y n, s.executing = some (.drw x y n) ∧ 0 < n.toNat ∧ 4096 ≤ s.i.toNat + n.toNat - 1) ∨
      (∃ x, s.executing = some (.ldVxMem x) ∧ 4096 ≤ s.i.toNat + x.val)) ∧
    (t.fault ≠ .none → UnchangedExcept [.fault, .opcode, .runMode] s t) ∧
    (s.fetchWord = none → t.opcode = s.opcode)

/-- Nothing in the core reads `last_key` or `redraw`: two states that differ only in them step to states that differ
only in them. 10_state.md section 5 (derived there). -/
def Obligations.LastKeyAndRedrawAreNeverRead : Prop :=
  ∀ (s t t' : State) (k : Key) (b : Bool), step s = .next t → step ((s.setRedraw b).setLastKey k) = .next t' →
    UnchangedExcept [.redraw, .lastKey] t t'

/-! ### Control transfer (41_control_flow.md) -/

/-- 1nnn jumps to nnn, any nnn, and changes nothing else. R152. -/
def Obligations.JpGoesToItsAddress : Prop :=
  ∀ (nnn : Addr12) (s : State),
    decodeWord (formatNNN 0x1#4 nnn) = .ok (.jp nnn) ∧
    Answers (exec (.jp nnn) s) fun t => t.pc.toNat = nnn.toNat ∧ UnchangedExcept [.pc] s t

/-- Bnnn jumps to nnn + V0, not reduced to 12 bits (the spec's own decision D28). 41_control_flow.md JP V0, nnn. -/
def Obligations.JpV0AddsV0Unreduced : Prop :=
  ∀ (nnn : Addr12) (s : State),
    Answers (exec (.jpV0 nnn) s) fun t =>
      t.pc.toNat = nnn.toNat + (s.getV 0).toNat ∧ UnchangedExcept [.pc] s t

/-- 2nnn with a free slot pushes its own address and jumps; with `SP = 16` it raises StackOverflow and changes
nothing else (the spec's own decision D3). 41_control_flow.md CALL nnn. -/
def Obligations.CallPushesItsOwnAddress : Prop :=
  ∀ (nnn : Addr12) (s : State),
    (∀ h : s.sp.val < 16, Answers (exec (.call nnn) s) fun t =>
      t.pc.toNat = nnn.toNat ∧ t.sp.val = s.sp.val + 1 ∧ t.stack[s.sp.val] = s.pc ∧
      (∀ k : Fin 16, k.val ≠ s.sp.val → t.stack[k] = s.stack[k]) ∧ UnchangedExcept [.pc, .sp, .stack] s t) ∧
    (s.sp.val = 16 → Answers (exec (.call nnn) s) fun t =>
      t.fault = .stackOverflow ∧ UnchangedExcept [.fault] s t)

/-- 00EE with a used slot goes to the popped address plus 2 and leaves the slot; with `SP = 0` it raises
StackUnderflow and changes nothing else (the spec's own decision D3). 41_control_flow.md RET. -/
def Obligations.RetContinuesAfterTheCall : Prop :=
  ∀ s : State,
    (∀ k : Fin 16, s.sp.val = k.val + 1 → Answers (exec .ret s) fun t =>
      t.pc = s.stack[k] + 2 ∧ t.sp.val = k.val ∧ UnchangedExcept [.pc, .sp] s t) ∧
    (s.sp.val = 0 → Answers (exec .ret s) fun t =>
      t.fault = .stackUnderflow ∧ UnchangedExcept [.fault] s t)

/-- A return, from any state that still has the stack a call left, comes back to the instruction after the call with
the stack pointer the call found. 41_control_flow.md RET and CALL, 95_test_vectors.md S8. -/
def Obligations.RetUndoesCall : Prop :=
  ∀ (nnn : Addr12) (s t u : State), s.sp.val < 16 → exec (.call nnn) s = .next t → u.stack = t.stack → u.sp = t.sp →
    Answers (exec .ret u) fun r => r.pc = s.pc + 2 ∧ r.sp = s.sp ∧ UnchangedExcept [.pc, .sp] u r

/-- 3xkk and 4xkk compare a register with kk and skip on equal, on different. R154, R155. -/
def Obligations.SkipsOnImmediateCompare : Prop :=
  ∀ (x : Reg) (kk : Byte) (s : State),
    decodeWord (formatXKK 0x3#4 x kk) = .ok (.seImm x kk) ∧ decodeWord (formatXKK 0x4#4 x kk) = .ok (.sneImm x kk) ∧
    (Answers (exec (.seImm x kk) s) fun t =>
      (s.getV x = kk → t.pc = s.pc + 4) ∧ (s.getV x ≠ kk → t.pc = s.pc + 2) ∧ UnchangedExcept [.pc] s t) ∧
    (Answers (exec (.sneImm x kk) s) fun t =>
      (s.getV x ≠ kk → t.pc = s.pc + 4) ∧ (s.getV x = kk → t.pc = s.pc + 2) ∧ UnchangedExcept [.pc] s t)

/-- 5xy0 and 9xy0 compare two registers and skip on equal, on different; with x = y the first always skips and the
second never does. 41_control_flow.md SE Vx, Vy and SNE Vx, Vy. -/
def Obligations.SkipsOnRegisterCompare : Prop :=
  ∀ (x y : Reg) (s : State),
    decodeWord (formatXYN 0x5#4 x y 0) = .ok (.seReg x y) ∧ decodeWord (formatXYN 0x9#4 x y 0) = .ok (.sneReg x y) ∧
    (Answers (exec (.seReg x y) s) fun t =>
      (s.getV x = s.getV y → t.pc = s.pc + 4) ∧ (s.getV x ≠ s.getV y → t.pc = s.pc + 2) ∧
      (x = y → t.pc = s.pc + 4) ∧ UnchangedExcept [.pc] s t) ∧
    (Answers (exec (.sneReg x y) s) fun t =>
      (s.getV x ≠ s.getV y → t.pc = s.pc + 4) ∧ (s.getV x = s.getV y → t.pc = s.pc + 2) ∧
      (x = y → t.pc = s.pc + 2) ∧ UnchangedExcept [.pc] s t)

/-- Ex9E skips when the key named by the whole byte Vx is pressed, ExA1 when it is not; a number above 15 is no key
and counts as not pressed (the spec's own decision D6). 45_keypad_timers.md SKP and SKNP. -/
def Obligations.SkipsOnKeyState : Prop :=
  ∀ (x : Reg) (s : State),
    let pressed := ∃ k : Key, k.val = (s.getV x).toNat ∧ s.getKey k = true
    (Answers (exec (.skp x) s) fun t =>
      (pressed → t.pc = s.pc + 4) ∧ (¬pressed → t.pc = s.pc + 2) ∧ UnchangedExcept [.pc] s t) ∧
    (Answers (exec (.sknp x) s) fun t =>
      (¬pressed → t.pc = s.pc + 4) ∧ (pressed → t.pc = s.pc + 2) ∧ UnchangedExcept [.pc] s t)

/-! ### Load, arithmetic, logic, shift, random (42_alu.md) -/

/-- 6xkk loads kk, 7xkk adds kk modulo 256 with no carry recorded, 8xy0 copies Vy; no other register changes, VF
only as the destination. R171, R172, R173. -/
def Obligations.LoadsAndAddImmediate : Prop :=
  ∀ (x y : Reg) (kk : Byte) (s : State),
    decodeWord (formatXKK 0x6#4 x kk) = .ok (.ldImm x kk) ∧ decodeWord (formatXKK 0x7#4 x kk) = .ok (.addImm x kk) ∧
    decodeWord (formatXYN 0x8#4 x y 0) = .ok (.ldReg x y) ∧
    (Answers (exec (.ldImm x kk) s) fun t =>
      t.getV x = kk ∧ t.pc = s.pc + 2 ∧ (∀ z, z ≠ x → t.getV z = s.getV z) ∧ UnchangedExcept [.v, .pc] s t) ∧
    (Answers (exec (.addImm x kk) s) fun t =>
      (t.getV x).toNat = ((s.getV x).toNat + kk.toNat) % 256 ∧ t.pc = s.pc + 2 ∧
      (∀ z, z ≠ x → t.getV z = s.getV z) ∧ UnchangedExcept [.v, .pc] s t) ∧
    (Answers (exec (.ldReg x y) s) fun t =>
      t.getV x = s.getV y ∧ t.pc = s.pc + 2 ∧ (∀ z, z ≠ x → t.getV z = s.getV z) ∧ UnchangedExcept [.v, .pc] s t)

/-- 8xy1, 8xy2, 8xy3 combine Vx and Vy bit by bit; no other register changes, VF only as the destination. R174, R175,
R176. -/
def Obligations.LogicIsBitwiseAndKeepsVF : Prop :=
  ∀ (x y : Reg) (s : State),
    decodeWord (formatXYN 0x8#4 x y 1) = .ok (.orReg x y) ∧ decodeWord (formatXYN 0x8#4 x y 2) = .ok (.andReg x y) ∧
    decodeWord (formatXYN 0x8#4 x y 3) = .ok (.xorReg x y) ∧
    (Answers (exec (.orReg x y) s) fun t =>
      (∀ b, b < 8 → (t.getV x).getLsbD b = ((s.getV x).getLsbD b || (s.getV y).getLsbD b)) ∧ t.pc = s.pc + 2 ∧
      (∀ z, z ≠ x → t.getV z = s.getV z) ∧ UnchangedExcept [.v, .pc] s t) ∧
    (Answers (exec (.andReg x y) s) fun t =>
      (∀ b, b < 8 → (t.getV x).getLsbD b = ((s.getV x).getLsbD b && (s.getV y).getLsbD b)) ∧ t.pc = s.pc + 2 ∧
      (∀ z, z ≠ x → t.getV z = s.getV z) ∧ UnchangedExcept [.v, .pc] s t) ∧
    (Answers (exec (.xorReg x y) s) fun t =>
      (∀ b, b < 8 → (t.getV x).getLsbD b = ((s.getV x).getLsbD b ^^ (s.getV y).getLsbD b)) ∧ t.pc = s.pc + 2 ∧
      (∀ z, z ≠ x → t.getV z = s.getV z) ∧ UnchangedExcept [.v, .pc] s t)

/-- 8xy4: Vx is the sum modulo 256, VF the carry, unless x is VF: then the sum overwrites the carry. Both operands are
read before VF is written. 42_alu.md ADD Vx, Vy; the case of VF as operand is the spec's own decision D10. -/
def Obligations.AddSetsCarry : Prop :=
  ∀ (x y : Reg) (s : State),
    let sum := (s.getV x).toNat + (s.getV y).toNat
    Answers (exec (.addReg x y) s) fun t =>
      (t.getV x).toNat = sum % 256 ∧ (x ≠ vf → (t.getV vf).toNat = if sum > 255 then 1 else 0) ∧ t.pc = s.pc + 2 ∧
      (∀ z, z ≠ x → z ≠ vf → t.getV z = s.getV z) ∧ UnchangedExcept [.v, .pc] s t

/-- 8xy5 and 8xy7: VF is 1 exactly when the minuend is strictly greater; then the difference modulo 256 goes to Vx,
reading VF where it is an operand as just written. 42_alu.md SUB and SUBN; VF as operand is the spec's own decision
D10. -/
def Obligations.SubtractionsFlagStrictlyGreater : Prop :=
  ∀ (x y : Reg) (s : State),
    (let f : Nat := if (s.getV x).toNat > (s.getV y).toNat then 1 else 0
     let a := if x = vf then f else (s.getV x).toNat
     let b := if y = vf then f else (s.getV y).toNat
     Answers (exec (.sub x y) s) fun t =>
      (t.getV x).toNat = (256 + a - b) % 256 ∧ (x ≠ vf → (t.getV vf).toNat = f) ∧ t.pc = s.pc + 2 ∧
      (∀ z, z ≠ x → z ≠ vf → t.getV z = s.getV z) ∧ UnchangedExcept [.v, .pc] s t) ∧
    (let f : Nat := if (s.getV y).toNat > (s.getV x).toNat then 1 else 0
     let a := if x = vf then f else (s.getV x).toNat
     let b := if y = vf then f else (s.getV y).toNat
     Answers (exec (.subn x y) s) fun t =>
      (t.getV x).toNat = (256 + b - a) % 256 ∧ (x ≠ vf → (t.getV vf).toNat = f) ∧ t.pc = s.pc + 2 ∧
      (∀ z, z ≠ x → z ≠ vf → t.getV z = s.getV z) ∧ UnchangedExcept [.v, .pc] s t)

/-- 8xy6 and 8xyE shift Vx itself by one whatever y is; VF is the bit shifted out; with x = VF the flag just written
is shifted (the spec's own decision D10). 42_alu.md SHR and SHL. -/
def Obligations.ShiftsPutTheLostBitInVF : Prop :=
  ∀ (x y : Reg) (s : State),
    (let f := (s.getV x).toNat % 2
     let a := if x = vf then f else (s.getV x).toNat
     Answers (exec (.shr x y) s) fun t =>
      (t.getV x).toNat = a / 2 ∧ (x ≠ vf → (t.getV vf).toNat = f) ∧ t.pc = s.pc + 2 ∧
      (∀ z, z ≠ x → z ≠ vf → t.getV z = s.getV z) ∧ UnchangedExcept [.v, .pc] s t) ∧
    (let f := (s.getV x).toNat / 128
     let a := if x = vf then f else (s.getV x).toNat
     Answers (exec (.shl x y) s) fun t =>
      (t.getV x).toNat = a * 2 % 256 ∧ (x ≠ vf → (t.getV vf).toNat = f) ∧ t.pc = s.pc + 2 ∧
      (∀ z, z ≠ x → z ≠ vf → t.getV z = s.getV z) ∧ UnchangedExcept [.v, .pc] s t)

/-- Cxkk stores a free byte masked by kk: every bit that kk clears is 0, whatever the draw; the draw is used up.
42_alu.md RND; the draw is the spec's own decision D14, its number the model's choice (log entries 2 and 5). -/
def Obligations.RndIsAMaskedDraw : Prop :=
  ∀ (x : Reg) (kk : Byte) (s : State),
    Answers (exec (.rnd x kk) s) fun t =>
      (∀ b, b < 8 → (t.getV x).getLsbD b = ((Config.randomByte s.draws).getLsbD b && kk.getLsbD b)) ∧
      (kk = 0 → t.getV x = 0) ∧ t.draws = s.draws + 1 ∧ t.pc = s.pc + 2 ∧ (∀ z, z ≠ x → t.getV z = s.getV z) ∧
      UnchangedExcept [.v, .pc, .draws] s t

/-! ### Index register and memory (43_index_memory.md) -/

/-- Annn loads I with nnn. R201. -/
def Obligations.LdILoadsTheAddress : Prop :=
  ∀ (nnn : Addr12) (s : State),
    decodeWord (formatNNN 0xA#4 nnn) = .ok (.ldI nnn) ∧
    Answers (exec (.ldI nnn) s) fun t =>
      t.i.toNat = nnn.toNat ∧ t.pc = s.pc + 2 ∧ UnchangedExcept [.i, .pc] s t

/-- Fx1E adds Vx to I modulo 65536 with no flag; Fx29 makes I five times the whole byte Vx (both the spec's own
decision D11). 43_index_memory.md ADD I, Vx and LD F, Vx. -/
def Obligations.IndexArithmetic : Prop :=
  ∀ (x : Reg) (s : State),
    (Answers (exec (.addI x) s) fun t =>
      t.i.toNat = (s.i.toNat + (s.getV x).toNat) % 65536 ∧ t.pc = s.pc + 2 ∧ UnchangedExcept [.i, .pc] s t) ∧
    (Answers (exec (.ldF x) s) fun t =>
      t.i.toNat = (s.getV x).toNat * 5 ∧ t.pc = s.pc + 2 ∧ UnchangedExcept [.i, .pc] s t)

/-- Fx33 stores the hundreds, tens and units digits of Vx at I, I + 1, I + 2; a byte at 4096 or beyond is dropped and
the instruction completes; no other byte changes. R206. -/
def Obligations.LdBStoresThreeDecimalDigits : Prop :=
  ∀ (x : Reg) (s : State),
    decodeWord (formatXKK 0xF#4 x 0x33) = .ok (.ldB x) ∧
    Answers (exec (.ldB x) s) fun t =>
      (s.dataAddr 0 < 4096 → (t.mem.read (s.dataAddr 0)).toNat = (s.getV x).toNat / 100) ∧
      (s.dataAddr 1 < 4096 → (t.mem.read (s.dataAddr 1)).toNat = (s.getV x).toNat / 10 % 10) ∧
      (s.dataAddr 2 < 4096 → (t.mem.read (s.dataAddr 2)).toNat = (s.getV x).toNat % 10) ∧
      (∀ a, a < s.dataAddr 0 ∨ s.dataAddr 2 < a ∨ 4096 ≤ a → t.mem.read a = s.mem.read a) ∧
      t.pc = s.pc + 2 ∧ UnchangedExcept [.mem, .pc] s t

/-- Fx55 stores V0..Vx at I..I + x, dropping bytes at 4096 and beyond; I and the registers are unchanged, no other
byte changes. R204. -/
def Obligations.LdMemVxStoresTheBlock : Prop :=
  ∀ (x : Reg) (s : State),
    decodeWord (formatXKK 0xF#4 x 0x55) = .ok (.ldMemVx x) ∧
    Answers (exec (.ldMemVx x) s) fun t =>
      (∀ k : Reg, k ≤ x → s.dataAddr k < 4096 → t.mem.read (s.dataAddr k) = s.getV k) ∧
      (∀ a, a < s.dataAddr 0 ∨ s.dataAddr x < a ∨ 4096 ≤ a → t.mem.read a = s.mem.read a) ∧
      t.pc = s.pc + 2 ∧ UnchangedExcept [.mem, .pc] s t

/-- Fx65 loads V0..Vx from I..I + x when the last address exists; otherwise it raises AddressOutOfRange before any
register is written (the spec's own decisions D4, D18). 43_index_memory.md LD Vx, [I]. -/
def Obligations.LdVxMemLoadsTheBlock : Prop :=
  ∀ (x : Reg) (s : State),
    (s.i.toNat + x.val < 4096 → Answers (exec (.ldVxMem x) s) fun t =>
      (∀ k : Reg, k ≤ x → t.getV k = s.mem.read (s.i.toNat + k.val)) ∧ (∀ k : Reg, x < k → t.getV k = s.getV k) ∧
      t.pc = s.pc + 2 ∧ UnchangedExcept [.v, .pc] s t) ∧
    (4096 ≤ s.i.toNat + x.val → Answers (exec (.ldVxMem x) s) fun t =>
      t.fault = .addressOutOfRange ∧ UnchangedExcept [.fault] s t)

/-! ### Display (44_display.md) -/

/-- 00E0 clears every pixel, sets the redraw flag and leaves VF. R221. -/
def Obligations.ClsClearsEveryPixel : Prop :=
  ∀ s : State,
    decodeWord 0x00E0#16 = .ok .cls ∧
    Answers (exec .cls s) fun t =>
      (∀ r c, t.disp.pixel r c = false) ∧ t.redraw = true ∧ t.pc = s.pc + 2 ∧
      UnchangedExcept [.disp, .redraw, .pc] s t

/-- Dxyn whose rows all exist: each pixel is toggled exactly where a 1 bit of the sprite lands, both axes wrapping;
VF is 1 exactly when a set pixel was toggled; the redraw flag is set, also with n = 0. 44_display.md DRW; that the
coordinates are read before VF is written is the spec's own decision D18. -/
def Obligations.DrwXorsTheSpriteAndReportsCollision : Prop :=
  ∀ (x y : Reg) (n : Nibble) (s : State), n = 0 ∨ s.i.toNat + n.toNat - 1 < 4096 →
    Answers (exec (.drw x y n) s) fun t =>
      (∀ r c, (SpriteSets s x y n r c → t.disp.pixel r c = !s.disp.pixel r c) ∧
        (¬SpriteSets s x y n r c → t.disp.pixel r c = s.disp.pixel r c)) ∧
      ((∃ r c, SpriteSets s x y n r c ∧ s.disp.pixel r c = true) → t.getV vf = 1) ∧
      (¬(∃ r c, SpriteSets s x y n r c ∧ s.disp.pixel r c = true) → t.getV vf = 0) ∧
      t.redraw = true ∧ t.pc = s.pc + 2 ∧ (∀ z, z ≠ vf → t.getV z = s.getV z) ∧
      UnchangedExcept [.disp, .v, .redraw, .pc] s t

/-- Dxyn with a row at 4096 or beyond raises AddressOutOfRange and draws nothing. 44_display.md DRW, the spec's own
decision D4. -/
def Obligations.DrwBeyondMemoryFaultsBeforeDrawing : Prop :=
  ∀ (x y : Reg) (n : Nibble) (s : State), n ≠ 0 → 4096 ≤ s.i.toNat + n.toNat - 1 →
    Answers (exec (.drw x y n) s) fun t => t.fault = .addressOutOfRange ∧ UnchangedExcept [.fault] s t

/-- Drawing the same sprite again at the same origin, through whatever registers hold it, restores the display and
reports a collision exactly when the first draw left a sprite pixel set. 44_display.md Corner cases (j), 95_test_vectors.md
S6. -/
def Obligations.DrawingTwiceRestoresTheDisplay : Prop :=
  ∀ (x y x' y' : Reg) (n : Nibble) (s t u : State), n = 0 ∨ s.i.toNat + n.toNat - 1 < 4096 →
    exec (.drw x y n) s = .next t → u.disp = t.disp → u.mem = t.mem → u.i = t.i →
    u.getV x' = s.getV x → u.getV y' = s.getV y →
    Answers (exec (.drw x' y' n) u) fun r =>
      (∀ a b, r.disp.pixel a b = s.disp.pixel a b) ∧
      (r.getV vf = 1 ↔ ∃ a b, SpriteSets s x y n a b ∧ t.disp.pixel a b = true)

/-! ### Keypad and timers (45_keypad_timers.md) -/

/-- Fx0A enters the key-wait with target x and leaves `PC`, the registers and the keypad. 45_keypad_timers.md
LD Vx, K (first half; the second is the key-wait service). -/
def Obligations.LdVxKEntersTheKeyWait : Prop :=
  ∀ (x : Reg) (s : State),
    Answers (exec (.ldVxK x) s) fun t =>
      t.waiting = true ∧ t.waitReg = x ∧ UnchangedExcept [.waiting, .waitReg] s t

/-- Fx07, Fx15 and Fx18 move a byte between a register and a timer and change nothing else but `PC`.
45_keypad_timers.md LD Vx, DT, LD DT, Vx and LD ST, Vx. -/
def Obligations.TimerMoves : Prop :=
  ∀ (x : Reg) (s : State),
    (Answers (exec (.ldVxDt x) s) fun t =>
      t.getV x = s.dt ∧ t.pc = s.pc + 2 ∧ (∀ z, z ≠ x → t.getV z = s.getV z) ∧ UnchangedExcept [.v, .pc] s t) ∧
    (Answers (exec (.ldDtVx x) s) fun t =>
      t.dt = s.getV x ∧ t.pc = s.pc + 2 ∧ UnchangedExcept [.dt, .pc] s t) ∧
    (Answers (exec (.ldStVx x) s) fun t =>
      t.st = s.getV x ∧ t.pc = s.pc + 2 ∧ UnchangedExcept [.st, .pc] s t)

/-! ### Host interface and reset (47_host_interface.md, 70_reset_and_hazards.md) -/

/-- `load` stores the bytes from 0x200 upward, drops those at 4096 and beyond, writes nothing below 0x200 and nothing
above the end of the ROM, and changes no other element. R73. -/
def Obligations.LoadWritesTheProgramArea : Prop :=
  ∀ (bytes : List Byte) (s : State),
    (∀ (k : Nat) (h : k < bytes.length), 0x200 + k < 4096 →
      (hostMove (.load bytes) s).mem.read (0x200 + k) = bytes[k]) ∧
    (∀ a, a < 0x200 ∨ 0x200 + bytes.length ≤ a ∨ 4096 ≤ a →
      (hostMove (.load bytes) s).mem.read a = s.mem.read a) ∧
    UnchangedExcept [.mem] s (hostMove (.load bytes) s)

/-- `keyDown(k)` sets its cell and `last_key`, `keyUp(k)` clears its cell; the other cells and every other element
stay. 47_host_interface.md section 3; `last_key` is the spec's own decision D21. -/
def Obligations.KeyEventsSetTheirOwnCell : Prop :=
  ∀ (k : Key) (s : State),
    (hostMove (.keyDown k) s).getKey k = true ∧ (hostMove (.keyDown k) s).lastKey = k ∧
    (hostMove (.keyUp k) s).getKey k = false ∧
    (∀ j, j ≠ k → (hostMove (.keyDown k) s).getKey j = s.getKey j ∧ (hostMove (.keyUp k) s).getKey j = s.getKey j) ∧
    UnchangedExcept [.key, .lastKey] s (hostMove (.keyDown k) s) ∧
    UnchangedExcept [.key] s (hostMove (.keyUp k) s)

/-- `reset` from any state, faulted and awaiting ones among them: every element has its reset value, memory is zero but
for the font, `redraw` alone is open, and no event is pulsed. 10_state.md section 8, 70_reset_and_hazards.md section
1; the values of registers, timers, keypad and control bits are the spec's own decisions D2, D7, D8. That `events` stays
as it was is how the model says that no event is pulsed (log entry 6, DESIGN CHOICE). -/
def Obligations.ResetErasesEverything : Prop :=
  ∀ s : State,
    let t := hostMove .reset s
    (∀ x, t.getV x = 0) ∧ t.i = 0 ∧ t.pc = 0x200 ∧ t.sp.val = 0 ∧ (∀ k : Fin 16, t.stack[k] = 0) ∧ t.dt = 0 ∧
    t.st = 0 ∧ (∀ a, a < 80 → t.mem.read a = Config.font a) ∧ (∀ a, 80 ≤ a → t.mem.read a = 0) ∧
    (∀ r c, t.disp.pixel r c = false) ∧ (∀ k, t.getKey k = false) ∧ t.lastKey = 0 ∧ t.waiting = false ∧
    t.waitReg = 0 ∧ t.runMode = .running ∧ t.opcode = 0 ∧ t.fault = .none ∧ t.events = s.events

/-- `pause` stops only a running core, `resume` always runs, `singleStep` arms only a paused core; none changes
anything else. 47_host_interface.md section 5; the transitions D0 does not list are the spec's own decision D16. -/
def Obligations.PauseResumeSingleStepTransitions : Prop :=
  ∀ s : State,
    (hostMove .pause s).runMode = (if s.runMode = .running then .paused else s.runMode) ∧
    (hostMove .resume s).runMode = .running ∧
    (hostMove .singleStep s).runMode = (if s.runMode = .paused then .singleStepPending else s.runMode) ∧
    UnchangedExcept [.runMode] s (hostMove .pause s) ∧ UnchangedExcept [.runMode] s (hostMove .resume s) ∧
    UnchangedExcept [.runMode] s (hostMove .singleStep s)

/-- `ackRedraw` clears the redraw flag and nothing else; no cycle ever clears it, a cycle that raises it executes 00E0
or Dxyn, and no host transaction but `ackRedraw` and `reset` changes it: it stays 1 until the next acknowledge. R270. -/
def Obligations.OnlyTheHostClearsRedraw : Prop :=
  ∀ s : State,
    (hostMove .ackRedraw s).redraw = false ∧ UnchangedExcept [.redraw] s (hostMove .ackRedraw s) ∧
    (∀ m, m ≠ .ackRedraw → m ≠ .reset → (hostMove m s).redraw = s.redraw) ∧
    Answers (step s) fun t =>
      (s.redraw = true → t.redraw = true) ∧
      (s.redraw = false → t.redraw = true → s.executing = some .cls ∨ ∃ x y n, s.executing = some (.drw x y n))

/-- In a running core, a jump to its own address, once both timers are 0 and the word has been fetched, is a fixed
point of the cycle.
70_reset_and_hazards.md section 5 (derived there). -/
def Obligations.SelfJumpIsAFixedPoint : Prop :=
  ∀ (s : State) (nnn : Addr12) (n : Nat), s.executingWord = some s.opcode → decodeWord s.opcode = .ok (.jp nnn) →
    s.pc.toNat = nnn.toNat → s.dt = 0 → s.st = 0 → s.runMode = .running → core.run n s = .next s

/-- Cycles on freshly reset memory execute the unknown opcode 0x0000 1792 times, then the fetch at 0x1000 latches
AddressOutOfRange. 70_reset_and_hazards.md section 2 (derived there), 95_test_vectors.md P6. The list `events` is the
model's own field, empty after power-on (log entry 6, DESIGN CHOICE). -/
def Obligations.EmptyProgramRunsOffTheEnd : Prop :=
  (∀ n, n ≤ 1792 → Answers (core.run n State.reset) fun t =>
    t.pc.toNat = 0x200 + 2 * n ∧ t.fault = .none ∧ t.events = List.replicate n (.unknownOpcode 0x0000)) ∧
  Answers (core.run 1793 State.reset) fun t => t.pc.toNat = 0x1000 ∧ t.fault = .addressOutOfRange
end

