-- ==== Sys2Proof/Laws/Decode.lean ====
section
/-! SUPPORT. What the fields of an assembled word are, and what the bytes of a word combine to. -/

namespace Sys2Proof

@[simp] theorem regField_toFin (x : Reg) : (regField x).toFin = x := rfl

@[simp] theorem formatNNN_major (m : Nibble) (a : Addr12) : (formatNNN m a).major = m := by
  ext i hi
  simp only [formatNNN, Word.major, BitVec.getElem_extractLsb']
  rw [BitVec.getLsbD_append]
  simp [show ¬(12 + i < 12) by omega, BitVec.getLsbD_eq_getElem hi]

@[simp] theorem formatNNN_nnn (m : Nibble) (a : Addr12) : (formatNNN m a).nnn = a := by
  ext i hi
  simp only [formatNNN, Word.nnn, BitVec.getElem_extractLsb']
  rw [BitVec.getLsbD_append]
  simp [hi]

@[simp] theorem formatXKK_major (m : Nibble) (x : Reg) (kk : Byte) : (formatXKK m x kk).major = m := by
  ext i hi
  simp only [formatXKK, Word.major, BitVec.getElem_extractLsb']
  rw [BitVec.getLsbD_append, BitVec.getLsbD_append]
  simp [show ¬(12 + i < 8) by omega, show ¬(12 + i - 8 < 4) by omega, show 12 + i - 8 - 4 = i by omega,
    BitVec.getLsbD_eq_getElem hi]

@[simp] theorem formatXKK_kk (m : Nibble) (x : Reg) (kk : Byte) : (formatXKK m x kk).kk = kk := by
  ext i hi
  simp only [formatXKK, Word.kk, BitVec.getElem_extractLsb']
  rw [BitVec.getLsbD_append]
  simp [hi]

@[simp] theorem formatXKK_x (m : Nibble) (x : Reg) (kk : Byte) : (formatXKK m x kk).x = x := by
  have h : (formatXKK m x kk).extractLsb' 8 4 = regField x := by
    ext i hi
    simp only [formatXKK, BitVec.getElem_extractLsb']
    rw [BitVec.getLsbD_append, BitVec.getLsbD_append]
    simp [show ¬(8 + i < 8) by omega, show 8 + i - 8 = i by omega, hi]
  simp [Word.x, h]

@[simp] theorem formatXYN_major (m : Nibble) (x y : Reg) (n : Nibble) : (formatXYN m x y n).major = m := by
  ext i hi
  simp only [formatXYN, Word.major, BitVec.getElem_extractLsb']
  rw [BitVec.getLsbD_append, BitVec.getLsbD_append, BitVec.getLsbD_append]
  simp [show ¬(12 + i < 4) by omega, show ¬(12 + i - 4 < 4) by omega, show ¬(12 + i - 4 - 4 < 4) by omega,
    show 12 + i - 4 - 4 - 4 = i by omega, BitVec.getLsbD_eq_getElem hi]

@[simp] theorem formatXYN_n (m : Nibble) (x y : Reg) (n : Nibble) : (formatXYN m x y n).n = n := by
  ext i hi
  simp only [formatXYN, Word.n, BitVec.getElem_extractLsb']
  rw [BitVec.getLsbD_append]
  simp [hi]

@[simp] theorem formatXYN_y (m : Nibble) (x y : Reg) (n : Nibble) : (formatXYN m x y n).y = y := by
  have h : (formatXYN m x y n).extractLsb' 4 4 = regField y := by
    ext i hi
    simp only [formatXYN, BitVec.getElem_extractLsb']
    rw [BitVec.getLsbD_append, BitVec.getLsbD_append]
    simp [show ¬(4 + i < 4) by omega, show 4 + i - 4 = i by omega, hi]
  simp [Word.y, h]

@[simp] theorem formatXYN_x (m : Nibble) (x y : Reg) (n : Nibble) : (formatXYN m x y n).x = x := by
  have h : (formatXYN m x y n).extractLsb' 8 4 = regField x := by
    ext i hi
    simp only [formatXYN, BitVec.getElem_extractLsb']
    rw [BitVec.getLsbD_append, BitVec.getLsbD_append, BitVec.getLsbD_append]
    simp [show ¬(8 + i < 4) by omega, show ¬(8 + i - 4 < 4) by omega, show 8 + i - 4 - 4 = i by omega, hi]
  simp [Word.x, h]

/-! ### A word is its fields -/

theorem Word.eq_formatNNN (w : Word) : w = formatNNN w.major w.nnn := by
  ext i hi
  simp only [formatNNN, Word.major, Word.nnn]
  rw [BitVec.getElem_append]
  by_cases h : i < 12
  · simp [h, BitVec.getLsbD_eq_getElem hi]
  · simp [h, show 12 + (i - 12) = i by omega, BitVec.getLsbD_eq_getElem hi]

theorem regField_x (w : Word) : regField w.x = w.extractLsb' 8 4 := rfl

theorem regField_y (w : Word) : regField w.y = w.extractLsb' 4 4 := rfl

theorem Word.eq_formatXKK (w : Word) : w = formatXKK w.major w.x w.kk := by
  ext i hi
  simp only [formatXKK, Word.major, Word.kk, regField_x]
  rw [BitVec.getElem_append]
  by_cases h : i < 8
  · simp [h, BitVec.getLsbD_eq_getElem hi]
  · rw [dif_neg h, BitVec.getElem_append]
    by_cases h2 : i - 8 < 4
    · simp [h2, show 8 + (i - 8) = i by omega, BitVec.getLsbD_eq_getElem hi]
    · simp [h2, show 12 + (i - 8 - 4) = i by omega, BitVec.getLsbD_eq_getElem hi]

theorem Word.eq_formatXYN (w : Word) : w = formatXYN w.major w.x w.y w.n := by
  ext i hi
  simp only [formatXYN, Word.major, Word.n, regField_x, regField_y]
  rw [BitVec.getElem_append]
  by_cases h : i < 4
  · simp [h, BitVec.getLsbD_eq_getElem hi]
  · rw [dif_neg h, BitVec.getElem_append]
    by_cases h2 : i - 4 < 4
    · simp [h2, show 4 + (i - 4) = i by omega, BitVec.getLsbD_eq_getElem hi]
    · rw [dif_neg h2, BitVec.getElem_append]
      by_cases h3 : i - 4 - 4 < 4
      · simp [h3, show 8 + (i - 4 - 4) = i by omega, BitVec.getLsbD_eq_getElem hi]
      · simp [h3, show 12 + (i - 4 - 4 - 4) = i by omega, BitVec.getLsbD_eq_getElem hi]

/-! ### Bytes of a word -/

@[simp] theorem wordOfBytes_hi_lo (w : Word) : wordOfBytes w.hiByte w.loByte = w := by
  ext i hi
  simp only [wordOfBytes, Word.hiByte, Word.loByte]
  rw [BitVec.getElem_append]
  by_cases h : i < 8
  · simp [h, BitVec.getLsbD_eq_getElem hi]
  · simp [h, show 8 + (i - 8) = i by omega, BitVec.getLsbD_eq_getElem hi]

/-- The big-endian combination as a number (20_memory.md R63). -/
theorem wordOfBytes_toNat (b0 b1 : Byte) : (wordOfBytes b0 b1).toNat = b0.toNat * 256 + b1.toNat := by
  rw [wordOfBytes, BitVec.toNat_append, ← Nat.shiftLeft_add_eq_or_of_lt b1.isLt, Nat.shiftLeft_eq]

/-- Masking works field by field. -/
theorem formatNNN_and (m m' : Nibble) (a a' : Addr12) :
    formatNNN m a &&& formatNNN m' a' = formatNNN (m &&& m') (a &&& a') := by
  simp only [formatNNN]; exact BitVec.and_append

/-! ### Decoding by major opcode -/

theorem nibble_cases (m : Nibble) :
    m = 0x0#4 ∨ m = 0x1#4 ∨ m = 0x2#4 ∨ m = 0x3#4 ∨ m = 0x4#4 ∨ m = 0x5#4 ∨ m = 0x6#4 ∨ m = 0x7#4 ∨ m = 0x8#4 ∨
      m = 0x9#4 ∨ m = 0xA#4 ∨ m = 0xB#4 ∨ m = 0xC#4 ∨ m = 0xD#4 ∨ m = 0xE#4 ∨ m = 0xF#4 := by
  revert m; decide

theorem decodeWord_major0 {w : Word} (h : w.major = 0x0#4) :
    decodeWord w = decodeZero w := by simp [decodeWord, h]
theorem decodeWord_major1 {w : Word} (h : w.major = 0x1#4) :
    decodeWord w = .ok (.jp w.nnn) := by simp [decodeWord, h]
theorem decodeWord_major2 {w : Word} (h : w.major = 0x2#4) :
    decodeWord w = .ok (.call w.nnn) := by simp [decodeWord, h]
theorem decodeWord_major3 {w : Word} (h : w.major = 0x3#4) :
    decodeWord w = .ok (.seImm w.x w.kk) := by simp [decodeWord, h]
theorem decodeWord_major4 {w : Word} (h : w.major = 0x4#4) :
    decodeWord w = .ok (.sneImm w.x w.kk) := by simp [decodeWord, h]
theorem decodeWord_major5 {w : Word} (h : w.major = 0x5#4) :
    decodeWord w = if w.n = 0x0#4 then .ok (.seReg w.x w.y) else .error (.unknownOpcode w) := by simp [decodeWord, h]
theorem decodeWord_major6 {w : Word} (h : w.major = 0x6#4) :
    decodeWord w = .ok (.ldImm w.x w.kk) := by simp [decodeWord, h]
theorem decodeWord_major7 {w : Word} (h : w.major = 0x7#4) :
    decodeWord w = .ok (.addImm w.x w.kk) := by simp [decodeWord, h]
theorem decodeWord_major8 {w : Word} (h : w.major = 0x8#4) :
    decodeWord w = decodeEight w := by simp [decodeWord, h]
theorem decodeWord_major9 {w : Word} (h : w.major = 0x9#4) :
    decodeWord w = if w.n = 0x0#4 then .ok (.sneReg w.x w.y) else .error (.unknownOpcode w) := by simp [decodeWord, h]
theorem decodeWord_majorA {w : Word} (h : w.major = 0xA#4) :
    decodeWord w = .ok (.ldI w.nnn) := by simp [decodeWord, h]
theorem decodeWord_majorB {w : Word} (h : w.major = 0xB#4) :
    decodeWord w = .ok (.jpV0 w.nnn) := by simp [decodeWord, h]
theorem decodeWord_majorC {w : Word} (h : w.major = 0xC#4) :
    decodeWord w = .ok (.rnd w.x w.kk) := by simp [decodeWord, h]
theorem decodeWord_majorD {w : Word} (h : w.major = 0xD#4) :
    decodeWord w = .ok (.drw w.x w.y w.n) := by simp [decodeWord, h]
theorem decodeWord_majorE {w : Word} (h : w.major = 0xE#4) :
    decodeWord w = decodeE w := by simp [decodeWord, h]
theorem decodeWord_majorF {w : Word} (h : w.major = 0xF#4) :
    decodeWord w = decodeF w := by simp [decodeWord, h]

/-! ### A word from its matched digits -/

theorem formatNNN_of_digits {w : Word} {m : Nibble} (h : w.major = m) : formatNNN m w.nnn = w := by
  rw [← h]; exact w.eq_formatNNN.symm

theorem formatXKK_of_digits {w : Word} {m : Nibble} (h : w.major = m) : formatXKK m w.x w.kk = w := by
  rw [← h]; exact w.eq_formatXKK.symm

theorem formatXF_of_digits {w : Word} {m : Nibble} {k : Byte} (h : w.major = m) (hk : w.kk = k) :
    formatXKK m w.x k = w := by
  rw [← h, ← hk]; exact w.eq_formatXKK.symm

theorem formatXYN_of_digits {w : Word} {m : Nibble} (h : w.major = m) : formatXYN m w.x w.y w.n = w := by
  rw [← h]; exact w.eq_formatXYN.symm

theorem formatXY_of_digits {w : Word} {m n : Nibble} (h : w.major = m) (hn : w.n = n) :
    formatXYN m w.x w.y n = w := by
  rw [← h, ← hn]; exact w.eq_formatXYN.symm

/-- A word that is no instruction is rejected as the unknown opcode it is. -/
theorem reject_eq {w : Word} {r : Reject} (h : decodeWord w = .error r) : r = .unknownOpcode w := by
  rcases nibble_cases w.major with m | m | m | m | m | m | m | m | m | m | m | m | m | m | m | m
  · rw [decodeWord_major0 m] at h; unfold decodeZero at h; split_ifs at h; cases h; rfl
  · rw [decodeWord_major1 m] at h; cases h
  · rw [decodeWord_major2 m] at h; cases h
  · rw [decodeWord_major3 m] at h; cases h
  · rw [decodeWord_major4 m] at h; cases h
  · rw [decodeWord_major5 m] at h; split_ifs at h; cases h; rfl
  · rw [decodeWord_major6 m] at h; cases h
  · rw [decodeWord_major7 m] at h; cases h
  · rw [decodeWord_major8 m] at h; unfold decodeEight at h; split_ifs at h; cases h; rfl
  · rw [decodeWord_major9 m] at h; split_ifs at h; cases h; rfl
  · rw [decodeWord_majorA m] at h; cases h
  · rw [decodeWord_majorB m] at h; cases h
  · rw [decodeWord_majorC m] at h; cases h
  · rw [decodeWord_majorD m] at h; cases h
  · rw [decodeWord_majorE m] at h; unfold decodeE at h; split_ifs at h; cases h; rfl
  · rw [decodeWord_majorF m] at h; unfold decodeF at h; split_ifs at h; cases h; rfl

end Sys2Proof
end

