-- ==== Sys2Proof/Laws/Display.lean ====
section
/-! SUPPORT. What drawing does to one pixel and to the collision flag. -/

namespace Sys2Proof.Machine

/-- Toggling changes its own pixel and no other. -/
@[simp] theorem Display.pixel_toggle (d : Display) (r r' : Fin 32) (c c' : Fin 64) :
    (d.toggle r c).pixel r' c' = (d.pixel r' c' ^^ decide (r' = r ∧ c' = c)) := by
  by_cases hr : r' = r
  · subst hr
    simp [Display.toggle, Display.pixel, Fin.ext_iff, eq_comm]
  · have hne : r.val ≠ r'.val := fun e => hr (Fin.ext e.symm)
    simp [Display.toggle, Display.pixel, hr, hne]

@[simp] theorem Display.pixel_clear (r : Fin 32) (c : Fin 64) : Display.clear.pixel r c = false := by
  simp [Display.clear, Display.pixel]

/-- The eight columns of a sprite row are distinct pixels (44_display.md R223 f). -/
theorem wrapCol_inj {vx j k : Nat} (hj : j < 8) (hk : k < 8) (h : wrapCol (vx + j) = wrapCol (vx + k)) : j = k := by
  have := congrArg Fin.val h
  simp only [wrapCol] at this
  omega

/-- The rows of a sprite are distinct display rows (44_display.md R223 f). -/
theorem wrapRow_inj {vy i k : Nat} (hi : i < 32) (hk : k < 32) (h : wrapRow (vy + i) = wrapRow (vy + k)) : i = k := by
  have := congrArg Fin.val h
  simp only [wrapRow] at this
  omega

theorem Blit.plot_pixel (b : Blit) (bit : Bool) (r r' : Fin 32) (c c' : Fin 64) :
    (b.plot bit r c).disp.pixel r' c' = (b.disp.pixel r' c' ^^ (bit && decide (r' = r ∧ c' = c))) := by
  cases bit <;> simp [Blit.plot]

theorem Blit.plot_collision (b : Blit) (bit : Bool) (r : Fin 32) (c : Fin 64) :
    (b.plot bit r c).collision = (b.collision || (bit && b.disp.pixel r c)) := by
  cases bit <;> simp [Blit.plot]

/-- A pixel after the first `j` columns of a sprite row: toggled exactly when one of their 1 bits lands on it. -/
theorem Blit.plotCols_pixel (b : Blit) (row : Byte) (vx : Nat) (r : Fin 32) (j : Nat) (hj : j ≤ 8) (r' : Fin 32)
    (c' : Fin 64) :
    (b.plotCols row vx r j).disp.pixel r' c' =
      (b.disp.pixel r' c' ^^ decide (r' = r ∧ ∃ k, k < j ∧ c' = wrapCol (vx + k) ∧ spriteBit row k = true)) := by
  induction j with
  | zero => simp [Blit.plotCols]
  | succ j ih =>
    rw [Blit.plotCols, Blit.plot_pixel, ih (by omega)]
    by_cases hr : r' = r
    · by_cases hc : c' = wrapCol (vx + j)
      · have hno : ¬∃ k, k < j ∧ c' = wrapCol (vx + k) ∧ spriteBit row k = true := by
          rintro ⟨k, hk, e, -⟩
          have := wrapCol_inj (by omega) (by omega) (hc.symm.trans e)
          omega
        have hyes : (∃ k, k < j + 1 ∧ c' = wrapCol (vx + k) ∧ spriteBit row k = true) ↔ spriteBit row j = true := by
          constructor
          · rintro ⟨k, hk, e, hb⟩
            have := wrapCol_inj (by omega) (by omega) (hc.symm.trans e)
            exact this ▸ hb
          · exact fun hb => ⟨j, by omega, hc, hb⟩
        have hd : decide (r' = r ∧ c' = wrapCol (vx + j)) = true := decide_eq_true ⟨hr, hc⟩
        rw [hd]
        simp only [hr, true_and, hno, hyes]
        simp
      · have hiff : (∃ k, k < j + 1 ∧ c' = wrapCol (vx + k) ∧ spriteBit row k = true) ↔
            ∃ k, k < j ∧ c' = wrapCol (vx + k) ∧ spriteBit row k = true := by
          constructor
          · rintro ⟨k, hk, e, hb⟩
            refine ⟨k, ?_, e, hb⟩
            rcases Nat.lt_succ_iff_lt_or_eq.1 hk with h | h
            · exact h
            · exact absurd (h ▸ e) hc
          · exact fun ⟨k, hk, e, hb⟩ => ⟨k, by omega, e, hb⟩
        simp only [hc, and_false, decide_false, Bool.and_false, Bool.xor_false, hiff]
    · simp [hr]

/-- The collision flag after the first `j` columns of a sprite row: set when one of their 1 bits meets a set pixel. -/
theorem Blit.plotCols_collision (b : Blit) (row : Byte) (vx : Nat) (r : Fin 32) (j : Nat) (hj : j ≤ 8) :
    (b.plotCols row vx r j).collision =
      (b.collision || decide (∃ k, k < j ∧ spriteBit row k = true ∧ b.disp.pixel r (wrapCol (vx + k)) = true)) := by
  induction j with
  | zero => simp [Blit.plotCols]
  | succ j ih =>
    have hpix : (b.plotCols row vx r j).disp.pixel r (wrapCol (vx + j)) = b.disp.pixel r (wrapCol (vx + j)) := by
      rw [Blit.plotCols_pixel _ _ _ _ _ (by omega)]
      have hno : ¬∃ k, k < j ∧ wrapCol (vx + j) = wrapCol (vx + k) ∧ spriteBit row k = true := by
        rintro ⟨k, hk, e, -⟩
        have := wrapCol_inj (by omega) (by omega) e
        omega
      simp [hno]
    rw [Blit.plotCols, Blit.plot_collision, ih (by omega), hpix, Bool.or_assoc]
    congr 1
    rw [Bool.eq_iff_iff]
    simp only [Bool.or_eq_true, decide_eq_true_eq, Bool.and_eq_true]
    constructor
    · rintro (⟨k, hk, hb⟩ | hb)
      · exact ⟨k, by omega, hb⟩
      · exact ⟨j, by omega, hb⟩
    · rintro ⟨k, hk, hb⟩
      rcases Nat.lt_succ_iff_lt_or_eq.1 hk with h | h
      · exact .inl ⟨k, h, hb⟩
      · exact .inr (h ▸ hb)

/-- Some 1 bit of the first `i` rows of a sprite lands on pixel (r', c'). -/
def RowsSet (m : Memory) (base vx vy i : Nat) (r' : Fin 32) (c' : Fin 64) : Prop :=
  ∃ k j, k < i ∧ j < 8 ∧ r' = wrapRow (vy + k) ∧ c' = wrapCol (vx + j) ∧ spriteBit (m.read (base + k)) j = true

/-- A pixel after the first `i` rows of a sprite. -/
theorem Blit.plotRows_pixel (b : Blit) (m : Memory) (base vx vy i : Nat) (hi : i ≤ 32) (r' : Fin 32) (c' : Fin 64) :
    ((b.plotRows m base vx vy i).disp.pixel r' c' = !b.disp.pixel r' c') ↔ RowsSet m base vx vy i r' c' := by
  induction i with
  | zero => simp [Blit.plotRows, RowsSet]
  | succ i ih =>
    rw [Blit.plotRows, Blit.plotCols_pixel _ _ _ _ _ (by omega)]
    have ih := ih (by omega)
    have hsplit : RowsSet m base vx vy (i + 1) r' c' ↔ RowsSet m base vx vy i r' c' ∨
        (r' = wrapRow (vy + i) ∧ ∃ j, j < 8 ∧ c' = wrapCol (vx + j) ∧ spriteBit (m.read (base + i)) j = true) := by
      constructor
      · rintro ⟨k, j, hk, hj, e, h⟩
        rcases Nat.lt_succ_iff_lt_or_eq.1 hk with hlt | rfl
        · exact .inl ⟨k, j, hlt, hj, e, h⟩
        · exact .inr ⟨e, j, hj, h⟩
      · rintro (⟨k, j, hk, hj, h⟩ | ⟨e, j, hj, h⟩)
        · exact ⟨k, j, by omega, hj, h⟩
        · exact ⟨i, j, by omega, hj, e, h⟩
    rw [hsplit]
    by_cases hr : r' = wrapRow (vy + i)
    · have hno : ¬RowsSet m base vx vy i r' c' := by
        rintro ⟨k, j, hk, hj, e, -⟩
        have := wrapRow_inj (by omega) (by omega) (hr.symm.trans e)
        omega
      have heq : (b.plotRows m base vx vy i).disp.pixel r' c' = b.disp.pixel r' c' := by
        have hne := mt ih.1 hno
        revert hne
        cases (b.plotRows m base vx vy i).disp.pixel r' c' <;> cases b.disp.pixel r' c' <;> simp
      rw [heq]
      have hx : ∀ p : Bool, ∀ q : Prop, [Decidable q] → (((p ^^ decide q) = !p) ↔ q) := by
        intro p q _
        cases p <;> simp
      rw [hx]
      simp [hno]
    · simp only [hr, false_and, decide_false, Bool.xor_false, or_false]
      exact ih

/-- The collision flag after the first `i` rows of a sprite: set exactly when a 1 bit meets a set pixel. -/
theorem Blit.plotRows_collision (b : Blit) (m : Memory) (base vx vy i : Nat) (hi : i ≤ 32) :
    (b.plotRows m base vx vy i).collision = true ↔
      b.collision = true ∨ ∃ r c, RowsSet m base vx vy i r c ∧ b.disp.pixel r c = true := by
  induction i with
  | zero => simp [Blit.plotRows, RowsSet]
  | succ i ih =>
    rw [Blit.plotRows, Blit.plotCols_collision _ _ _ _ _ (by omega)]
    simp only [Bool.or_eq_true, decide_eq_true_eq]
    rw [ih (by omega), or_assoc]
    have hpix : ∀ c, (b.plotRows m base vx vy i).disp.pixel (wrapRow (vy + i)) c =
        b.disp.pixel (wrapRow (vy + i)) c := by
      intro c
      have hno : ¬RowsSet m base vx vy i (wrapRow (vy + i)) c := by
        rintro ⟨k, j, hk, hj, e, -⟩
        have := wrapRow_inj (by omega) (by omega) e
        omega
      have hne := mt (Blit.plotRows_pixel b m base vx vy i (by omega) (wrapRow (vy + i)) c).1 hno
      revert hne
      cases (b.plotRows m base vx vy i).disp.pixel (wrapRow (vy + i)) c <;>
        cases b.disp.pixel (wrapRow (vy + i)) c <;> simp
    refine or_congr Iff.rfl ?_
    constructor
    · rintro (⟨r, c, ⟨k, j, hk, h⟩, hp⟩ | ⟨j, hj, hb, hp⟩)
      · exact ⟨r, c, ⟨k, j, by omega, h⟩, hp⟩
      · exact ⟨_, _, ⟨i, j, by omega, hj, rfl, rfl, hb⟩, (hpix _) ▸ hp⟩
    · rintro ⟨r, c, ⟨k, j, hk, hj, er, ec, hb⟩, hp⟩
      rcases Nat.lt_succ_iff_lt_or_eq.1 hk with hlt | rfl
      · exact .inl ⟨r, c, ⟨k, j, hlt, hj, er, ec, hb⟩, hp⟩
      · subst er ec
        exact .inr ⟨j, hj, hb, (hpix _).symm ▸ hp⟩

/-- The rows of the sprite DRW draws, in the terms of `SpriteSets`. -/
theorem rowsSet_iff_spriteSets (s : State) (x y : Reg) (n : Nibble) (r : Fin 32) (c : Fin 64) :
    RowsSet s.mem (s.dataAddr 0) (s.getV x).toNat (s.getV y).toNat n.toNat r c ↔ SpriteSets s x y n r c := by
  simp only [RowsSet, SpriteSets, State.dataAddr, spriteBit, wrapRow, wrapCol, Fin.ext_iff, eq_comm, Nat.add_zero]

/-- A sprite pixel after the blit of DRW (44_display.md R222): toggled exactly where the sprite sets it. -/
theorem State.blit_pixel (s : State) (x y : Reg) (n : Nibble) (r : Fin 32) (c : Fin 64) :
    ((s.blit x y n).disp.pixel r c = !s.disp.pixel r c) ↔ SpriteSets s x y n r c := by
  rw [← rowsSet_iff_spriteSets]
  exact Blit.plotRows_pixel _ _ _ _ _ _ (by omega) r c

/-- The collision flag of DRW (44_display.md R222). -/
theorem State.blit_collision (s : State) (x y : Reg) (n : Nibble) :
    (s.blit x y n).collision = true ↔ ∃ r c, SpriteSets s x y n r c ∧ s.disp.pixel r c = true := by
  have h := Blit.plotRows_collision ⟨s.disp, false⟩ s.mem (s.dataAddr 0) (s.getV x).toNat (s.getV y).toNat n.toNat
    (by omega)
  simp only [rowsSet_iff_spriteSets, Bool.false_eq_true, false_or] at h
  exact h

end Sys2Proof.Machine
end

