-- ==== Sys2Proof/Laws/Memory.lean ====
section
/-! SUPPORT. The laws of memory: what a read after a write gives, and that every operation keeps the canonical form. -/

namespace Sys2Proof.Machine.Memory

/-! ### Reads after writes (no canonical form needed) -/

theorem read_put (m : Memory) (a : Nat) (b : Byte) (c : Nat) :
    read (put m a b) c = if c = a then b else read m c := by
  induction m with
  | nil =>
    by_cases h : c = a
    · simp [put, read, h]
    · simp [put, read, h, Ne.symm h]
  | cons cell m ih =>
    obtain ⟨k, v⟩ := cell
    by_cases h1 : a < k
    · by_cases h : c = a
      · simp [put, read, h1, h]
      · simp [put, read, h1, h, Ne.symm h]
    · by_cases h2 : a = k
      · subst h2
        by_cases h : c = a
        · simp [put, read, h]
        · simp [put, read, h, Ne.symm h]
      · by_cases h : k = c
        · subst h
          simp [put, read, h1, h2, Ne.symm h2]
        · simp [put, read, h1, h2, h, ih]

theorem read_erase (m : Memory) (a c : Nat) :
    read (m.erase a) c = if c = a then unlistedByte c else read m c := by
  induction m with
  | nil => simp [erase, read]
  | cons cell m ih =>
    obtain ⟨k, v⟩ := cell
    by_cases h : k = a
    · subst h
      have e : erase ((k, v) :: m) k = erase m k := by simp [erase]
      by_cases h2 : c = k
      · rw [e, ih, if_pos h2, if_pos h2]
      · rw [e, ih, if_neg h2, if_neg h2]
        simp [read, Ne.symm h2]
    · have e : erase ((k, v) :: m) a = (k, v) :: erase m a := by simp [erase, h]
      rw [e]
      by_cases h2 : k = c
      · subst h2
        simp [read, h]
      · simp [read, h2, ih]

/-- A read returns the last value written; a write at 4096 or more is dropped (20_memory.md R65, R67). -/
@[simp] theorem read_write (m : Memory) (a : Nat) (b : Byte) (c : Nat) :
    read (m.write a b) c = if c = a ∧ a < Config.memSize then b else read m c := by
  unfold write
  by_cases h : a < Config.memSize
  · by_cases hb : b = unlistedByte a
    · by_cases hc : c = a
      · simp [h, hb, hc, read_erase]
      · simp [h, hb, hc, read_erase]
    · simp [h, hb, read_put]
  · simp [h]

/-- A block of bytes from `a` upward: each byte below 4096 is stored, nothing else changes. -/
theorem read_writeBytes (m : Memory) (a : Nat) (bs : List Byte) (c : Nat) :
    read (m.writeBytes a bs) c =
      if h : a ≤ c ∧ c < a + bs.length ∧ c < Config.memSize then bs[c - a]'(by omega) else read m c := by
  induction bs generalizing m a with
  | nil =>
    have h : ¬(a ≤ c ∧ c < a + ([] : List Byte).length ∧ c < Config.memSize) := by
      simp only [List.length_nil]; omega
    rw [dif_neg h, writeBytes]
  | cons b bs ih =>
    rw [writeBytes, ih]
    by_cases h1 : a + 1 ≤ c ∧ c < a + 1 + bs.length ∧ c < Config.memSize
    · have h2 : a ≤ c ∧ c < a + (b :: bs).length ∧ c < Config.memSize := by
        simp only [List.length_cons]; omega
      rw [dif_pos h1, dif_pos h2]
      have e : c - a = (c - (a + 1)) + 1 := by omega
      simp [e]
    · rw [dif_neg h1, read_write]
      by_cases hc : c = a ∧ a < Config.memSize
      · have h2 : a ≤ c ∧ c < a + (b :: bs).length ∧ c < Config.memSize := by
          simp only [List.length_cons]; omega
        rw [if_pos hc, dif_pos h2]
        simp [hc.1]
      · have h2 : ¬(a ≤ c ∧ c < a + (b :: bs).length ∧ c < Config.memSize) := by
          simp only [List.length_cons]; omega
        rw [if_neg hc, dif_neg h2]

/-! ### The canonical form -/

theorem wf_nil : wf [] := by simp [wf]

theorem mem_put {m : Memory} {a : Nat} {b : Byte} {p : Host.Cell} (h : p ∈ put m a b) : p = (a, b) ∨ p ∈ m := by
  induction m with
  | nil => simpa [put] using h
  | cons cell m ih =>
    obtain ⟨k, v⟩ := cell
    by_cases h1 : a < k
    · simpa [put, h1] using h
    · by_cases h2 : a = k
      · have e : put ((k, v) :: m) a b = (a, b) :: m := by simp [put, h2]
        rw [e, List.mem_cons] at h
        exact h.imp_right (List.mem_cons_of_mem _)
      · simp only [put, h1, h2, if_false, List.mem_cons] at h
        rcases h with h | h
        · exact .inr (by simp [h])
        · rcases ih h with h | h
          · exact .inl h
          · exact .inr (List.mem_cons_of_mem _ h)

theorem wf_put {m : Memory} {a : Nat} {b : Byte} (hm : wf m) (ha : a < Config.memSize) (hb : b ≠ unlistedByte a) :
    wf (put m a b) := by
  refine ⟨?_, fun p hp => ?_⟩
  · have hs := hm.1
    clear hm
    induction m with
    | nil => simp [put]
    | cons cell m ih =>
      obtain ⟨k, v⟩ := cell
      rw [List.pairwise_cons] at hs
      by_cases h1 : a < k
      · simp only [put, h1, if_true]
        refine List.pairwise_cons.2 ⟨fun p hp => ?_, List.pairwise_cons.2 hs⟩
        rcases List.mem_cons.1 hp with rfl | hp
        · exact h1
        · exact h1.trans (hs.1 p hp)
      · by_cases h2 : a = k
        · subst h2
          simp only [put, h1, if_true, if_false]
          exact List.pairwise_cons.2 ⟨hs.1, hs.2⟩
        · simp only [put, h1, h2, if_false]
          refine List.pairwise_cons.2 ⟨fun p hp => ?_, ih hs.2⟩
          rcases mem_put hp with rfl | hp
          · simp only; omega
          · exact hs.1 p hp
  · rcases mem_put hp with rfl | hp
    · exact ⟨ha, hb⟩
    · exact hm.2 p hp

theorem wf_erase {m : Memory} (a : Nat) (hm : wf m) : wf (m.erase a) :=
  ⟨hm.1.filter _, fun p hp => hm.2 p (List.mem_of_mem_filter hp)⟩

theorem wf_write {m : Memory} (a : Nat) (b : Byte) (hm : wf m) : wf (m.write a b) := by
  unfold write
  split
  · split
    · exact wf_erase a hm
    · exact wf_put hm ‹_› ‹_›
  · exact hm

theorem wf_writeBytes {m : Memory} (a : Nat) (bs : List Byte) (hm : wf m) : wf (m.writeBytes a bs) := by
  induction bs generalizing m a with
  | nil => exact hm
  | cons b bs ih => exact ih (a + 1) (wf_write a b hm)

theorem read_eq_of_mem {m : Memory} (hm : wf m) {p : Host.Cell} (hp : p ∈ m) : read m p.1 = p.2 := by
  have hs := hm.1
  clear hm
  induction m with
  | nil => simp at hp
  | cons cell m ih =>
    rw [List.pairwise_cons] at hs
    rcases List.mem_cons.1 hp with rfl | h
    · simp [read]
    · have := hs.1 p h
      have hne : cell.1 ≠ p.1 := by omega
      obtain ⟨k, v⟩ := cell
      simpa [read, hne] using ih h hs.2

theorem read_eq_unlisted {m : Memory} {a : Nat} (h : ∀ p ∈ m, p.1 ≠ a) : read m a = unlistedByte a := by
  induction m with
  | nil => rfl
  | cons cell m ih =>
    obtain ⟨k, v⟩ := cell
    have hk : k ≠ a := h (k, v) (by simp)
    simpa [read, hk] using ih fun p hp => h p (List.mem_cons_of_mem _ hp)

/-- Every cell of a canonical memory is a cell of another one that reads the same everywhere. -/
theorem mem_of_read_eq {m m' : Memory} (hm : wf m) (hm' : wf m') (h : ∀ a, read m a = read m' a) {p : Host.Cell}
    (hp : p ∈ m) : p ∈ m' := by
  by_contra hn
  have hv : read m' p.1 = p.2 := by rw [← h]; exact read_eq_of_mem hm hp
  by_cases hk : ∃ q ∈ m', q.1 = p.1
  · obtain ⟨q, hq, hqk⟩ := hk
    have := read_eq_of_mem hm' hq
    rw [hqk, hv] at this
    exact hn (by rw [show p = q from Prod.ext hqk.symm this]; exact hq)
  · have := read_eq_unlisted (m := m') (a := p.1) fun q hq e => hk ⟨q, hq, e⟩
    exact (hm.2 p hp).2 (hv.symm.trans this)

/-- Equal memories are equal data: two canonical lists that read the same everywhere are the same list. -/
theorem wf_ext {m m' : Memory} (hm : wf m) (hm' : wf m') (h : ∀ a, read m a = read m' a) : m = m' := by
  have hnd : ∀ {m : Memory}, wf m → m.Nodup := fun hm =>
    hm.1.imp fun {p q} hlt e => by rw [e] at hlt; exact lt_irrefl _ hlt
  have hperm : m.Perm m' := (List.perm_ext_iff_of_nodup (hnd hm) (hnd hm')).2 fun p =>
    ⟨mem_of_read_eq hm hm' h, mem_of_read_eq hm' hm fun a => (h a).symm⟩
  exact hperm.eq_of_pairwise (fun p q _ _ h1 h2 => absurd h1 (by omega)) hm.1 hm'.1

end Sys2Proof.Machine.Memory
end

