-- ==== Sys2Proof/Laws/State.lean ====
section
/-! SUPPORT. One lemma per field per update of State, each true by rfl, so that no proof unfolds a record update; and
the read-after-write laws of the register file and the keypad. -/

namespace Sys2Proof.Machine.State

variable (s : State)

/-! ### Registers and keys -/

@[simp] theorem getV_setV (x : Reg) (b : Byte) (y : Reg) : (s.setV x b).getV y = if y = x then b else s.getV y := by
  simp [getV, setV, Vector.getElem_set, Fin.ext_iff, eq_comm]

@[simp] theorem getKey_setKey (k : Key) (b : Bool) (j : Key) :
    (s.setKey k b).getKey j = if j = k then b else s.getKey j := by
  simp [getKey, setKey, Vector.getElem_set, Fin.ext_iff, eq_comm]

/-! ### `setV` -/

@[simp] theorem setV_i (x : Reg) (b : Byte) : (s.setV x b).i = s.i := rfl
@[simp] theorem setV_pc (x : Reg) (b : Byte) : (s.setV x b).pc = s.pc := rfl
@[simp] theorem setV_sp (x : Reg) (b : Byte) : (s.setV x b).sp = s.sp := rfl
@[simp] theorem setV_stack (x : Reg) (b : Byte) : (s.setV x b).stack = s.stack := rfl
@[simp] theorem setV_dt (x : Reg) (b : Byte) : (s.setV x b).dt = s.dt := rfl
@[simp] theorem setV_st (x : Reg) (b : Byte) : (s.setV x b).st = s.st := rfl
@[simp] theorem setV_mem (x : Reg) (b : Byte) : (s.setV x b).mem = s.mem := rfl
@[simp] theorem setV_disp (x : Reg) (b : Byte) : (s.setV x b).disp = s.disp := rfl
@[simp] theorem setV_redraw (x : Reg) (b : Byte) : (s.setV x b).redraw = s.redraw := rfl
@[simp] theorem setV_key (x : Reg) (b : Byte) : (s.setV x b).key = s.key := rfl
@[simp] theorem setV_lastKey (x : Reg) (b : Byte) : (s.setV x b).lastKey = s.lastKey := rfl
@[simp] theorem setV_waiting (x : Reg) (b : Byte) : (s.setV x b).waiting = s.waiting := rfl
@[simp] theorem setV_waitReg (x : Reg) (b : Byte) : (s.setV x b).waitReg = s.waitReg := rfl
@[simp] theorem setV_runMode (x : Reg) (b : Byte) : (s.setV x b).runMode = s.runMode := rfl
@[simp] theorem setV_opcode (x : Reg) (b : Byte) : (s.setV x b).opcode = s.opcode := rfl
@[simp] theorem setV_fault (x : Reg) (b : Byte) : (s.setV x b).fault = s.fault := rfl
@[simp] theorem setV_draws (x : Reg) (b : Byte) : (s.setV x b).draws = s.draws := rfl
@[simp] theorem setV_events (x : Reg) (b : Byte) : (s.setV x b).events = s.events := rfl
@[simp] theorem setV_getKey (x : Reg) (b : Byte) (j : Key) : (s.setV x b).getKey j = s.getKey j := rfl

/-! ### `setI` -/

@[simp] theorem setI_v (a : Word) : (s.setI a).v = s.v := rfl
@[simp] theorem setI_i (a : Word) : (s.setI a).i = a := rfl
@[simp] theorem setI_pc (a : Word) : (s.setI a).pc = s.pc := rfl
@[simp] theorem setI_sp (a : Word) : (s.setI a).sp = s.sp := rfl
@[simp] theorem setI_stack (a : Word) : (s.setI a).stack = s.stack := rfl
@[simp] theorem setI_dt (a : Word) : (s.setI a).dt = s.dt := rfl
@[simp] theorem setI_st (a : Word) : (s.setI a).st = s.st := rfl
@[simp] theorem setI_mem (a : Word) : (s.setI a).mem = s.mem := rfl
@[simp] theorem setI_disp (a : Word) : (s.setI a).disp = s.disp := rfl
@[simp] theorem setI_redraw (a : Word) : (s.setI a).redraw = s.redraw := rfl
@[simp] theorem setI_key (a : Word) : (s.setI a).key = s.key := rfl
@[simp] theorem setI_lastKey (a : Word) : (s.setI a).lastKey = s.lastKey := rfl
@[simp] theorem setI_waiting (a : Word) : (s.setI a).waiting = s.waiting := rfl
@[simp] theorem setI_waitReg (a : Word) : (s.setI a).waitReg = s.waitReg := rfl
@[simp] theorem setI_runMode (a : Word) : (s.setI a).runMode = s.runMode := rfl
@[simp] theorem setI_opcode (a : Word) : (s.setI a).opcode = s.opcode := rfl
@[simp] theorem setI_fault (a : Word) : (s.setI a).fault = s.fault := rfl
@[simp] theorem setI_draws (a : Word) : (s.setI a).draws = s.draws := rfl
@[simp] theorem setI_events (a : Word) : (s.setI a).events = s.events := rfl
@[simp] theorem setI_getV (a : Word) (y : Reg) : (s.setI a).getV y = s.getV y := rfl
@[simp] theorem setI_getKey (a : Word) (j : Key) : (s.setI a).getKey j = s.getKey j := rfl

/-! ### `setPc` -/

@[simp] theorem setPc_v (a : Word) : (s.setPc a).v = s.v := rfl
@[simp] theorem setPc_i (a : Word) : (s.setPc a).i = s.i := rfl
@[simp] theorem setPc_pc (a : Word) : (s.setPc a).pc = a := rfl
@[simp] theorem setPc_sp (a : Word) : (s.setPc a).sp = s.sp := rfl
@[simp] theorem setPc_stack (a : Word) : (s.setPc a).stack = s.stack := rfl
@[simp] theorem setPc_dt (a : Word) : (s.setPc a).dt = s.dt := rfl
@[simp] theorem setPc_st (a : Word) : (s.setPc a).st = s.st := rfl
@[simp] theorem setPc_mem (a : Word) : (s.setPc a).mem = s.mem := rfl
@[simp] theorem setPc_disp (a : Word) : (s.setPc a).disp = s.disp := rfl
@[simp] theorem setPc_redraw (a : Word) : (s.setPc a).redraw = s.redraw := rfl
@[simp] theorem setPc_key (a : Word) : (s.setPc a).key = s.key := rfl
@[simp] theorem setPc_lastKey (a : Word) : (s.setPc a).lastKey = s.lastKey := rfl
@[simp] theorem setPc_waiting (a : Word) : (s.setPc a).waiting = s.waiting := rfl
@[simp] theorem setPc_waitReg (a : Word) : (s.setPc a).waitReg = s.waitReg := rfl
@[simp] theorem setPc_runMode (a : Word) : (s.setPc a).runMode = s.runMode := rfl
@[simp] theorem setPc_opcode (a : Word) : (s.setPc a).opcode = s.opcode := rfl
@[simp] theorem setPc_fault (a : Word) : (s.setPc a).fault = s.fault := rfl
@[simp] theorem setPc_draws (a : Word) : (s.setPc a).draws = s.draws := rfl
@[simp] theorem setPc_events (a : Word) : (s.setPc a).events = s.events := rfl
@[simp] theorem setPc_getV (a : Word) (y : Reg) : (s.setPc a).getV y = s.getV y := rfl
@[simp] theorem setPc_getKey (a : Word) (j : Key) : (s.setPc a).getKey j = s.getKey j := rfl

/-! ### `advance` -/

@[simp] theorem advance_v (n : Word) : (s.advance n).v = s.v := rfl
@[simp] theorem advance_i (n : Word) : (s.advance n).i = s.i := rfl
@[simp] theorem advance_pc (n : Word) : (s.advance n).pc = s.pc + n := rfl
@[simp] theorem advance_sp (n : Word) : (s.advance n).sp = s.sp := rfl
@[simp] theorem advance_stack (n : Word) : (s.advance n).stack = s.stack := rfl
@[simp] theorem advance_dt (n : Word) : (s.advance n).dt = s.dt := rfl
@[simp] theorem advance_st (n : Word) : (s.advance n).st = s.st := rfl
@[simp] theorem advance_mem (n : Word) : (s.advance n).mem = s.mem := rfl
@[simp] theorem advance_disp (n : Word) : (s.advance n).disp = s.disp := rfl
@[simp] theorem advance_redraw (n : Word) : (s.advance n).redraw = s.redraw := rfl
@[simp] theorem advance_key (n : Word) : (s.advance n).key = s.key := rfl
@[simp] theorem advance_lastKey (n : Word) : (s.advance n).lastKey = s.lastKey := rfl
@[simp] theorem advance_waiting (n : Word) : (s.advance n).waiting = s.waiting := rfl
@[simp] theorem advance_waitReg (n : Word) : (s.advance n).waitReg = s.waitReg := rfl
@[simp] theorem advance_runMode (n : Word) : (s.advance n).runMode = s.runMode := rfl
@[simp] theorem advance_opcode (n : Word) : (s.advance n).opcode = s.opcode := rfl
@[simp] theorem advance_fault (n : Word) : (s.advance n).fault = s.fault := rfl
@[simp] theorem advance_draws (n : Word) : (s.advance n).draws = s.draws := rfl
@[simp] theorem advance_events (n : Word) : (s.advance n).events = s.events := rfl
@[simp] theorem advance_getV (n : Word) (y : Reg) : (s.advance n).getV y = s.getV y := rfl
@[simp] theorem advance_getKey (n : Word) (j : Key) : (s.advance n).getKey j = s.getKey j := rfl

/-! ### `skipIf` -/

@[simp] theorem skipIf_v (c : Bool) : (s.skipIf c).v = s.v := rfl
@[simp] theorem skipIf_i (c : Bool) : (s.skipIf c).i = s.i := rfl
@[simp] theorem skipIf_pc (c : Bool) : (s.skipIf c).pc = s.pc + (if c then 4 else 2) := rfl
@[simp] theorem skipIf_sp (c : Bool) : (s.skipIf c).sp = s.sp := rfl
@[simp] theorem skipIf_stack (c : Bool) : (s.skipIf c).stack = s.stack := rfl
@[simp] theorem skipIf_dt (c : Bool) : (s.skipIf c).dt = s.dt := rfl
@[simp] theorem skipIf_st (c : Bool) : (s.skipIf c).st = s.st := rfl
@[simp] theorem skipIf_mem (c : Bool) : (s.skipIf c).mem = s.mem := rfl
@[simp] theorem skipIf_disp (c : Bool) : (s.skipIf c).disp = s.disp := rfl
@[simp] theorem skipIf_redraw (c : Bool) : (s.skipIf c).redraw = s.redraw := rfl
@[simp] theorem skipIf_key (c : Bool) : (s.skipIf c).key = s.key := rfl
@[simp] theorem skipIf_lastKey (c : Bool) : (s.skipIf c).lastKey = s.lastKey := rfl
@[simp] theorem skipIf_waiting (c : Bool) : (s.skipIf c).waiting = s.waiting := rfl
@[simp] theorem skipIf_waitReg (c : Bool) : (s.skipIf c).waitReg = s.waitReg := rfl
@[simp] theorem skipIf_runMode (c : Bool) : (s.skipIf c).runMode = s.runMode := rfl
@[simp] theorem skipIf_opcode (c : Bool) : (s.skipIf c).opcode = s.opcode := rfl
@[simp] theorem skipIf_fault (c : Bool) : (s.skipIf c).fault = s.fault := rfl
@[simp] theorem skipIf_draws (c : Bool) : (s.skipIf c).draws = s.draws := rfl
@[simp] theorem skipIf_events (c : Bool) : (s.skipIf c).events = s.events := rfl
@[simp] theorem skipIf_getV (c : Bool) (y : Reg) : (s.skipIf c).getV y = s.getV y := rfl
@[simp] theorem skipIf_getKey (c : Bool) (j : Key) : (s.skipIf c).getKey j = s.getKey j := rfl

/-! ### `setSlot` -/

@[simp] theorem setSlot_v (k : Fin 16) (a : Word) : (s.setSlot k a).v = s.v := rfl
@[simp] theorem setSlot_i (k : Fin 16) (a : Word) : (s.setSlot k a).i = s.i := rfl
@[simp] theorem setSlot_pc (k : Fin 16) (a : Word) : (s.setSlot k a).pc = s.pc := rfl
@[simp] theorem setSlot_sp (k : Fin 16) (a : Word) : (s.setSlot k a).sp = s.sp := rfl
@[simp] theorem setSlot_stack (k : Fin 16) (a : Word) : (s.setSlot k a).stack = s.stack.set k a := rfl
@[simp] theorem setSlot_dt (k : Fin 16) (a : Word) : (s.setSlot k a).dt = s.dt := rfl
@[simp] theorem setSlot_st (k : Fin 16) (a : Word) : (s.setSlot k a).st = s.st := rfl
@[simp] theorem setSlot_mem (k : Fin 16) (a : Word) : (s.setSlot k a).mem = s.mem := rfl
@[simp] theorem setSlot_disp (k : Fin 16) (a : Word) : (s.setSlot k a).disp = s.disp := rfl
@[simp] theorem setSlot_redraw (k : Fin 16) (a : Word) : (s.setSlot k a).redraw = s.redraw := rfl
@[simp] theorem setSlot_key (k : Fin 16) (a : Word) : (s.setSlot k a).key = s.key := rfl
@[simp] theorem setSlot_lastKey (k : Fin 16) (a : Word) : (s.setSlot k a).lastKey = s.lastKey := rfl
@[simp] theorem setSlot_waiting (k : Fin 16) (a : Word) : (s.setSlot k a).waiting = s.waiting := rfl
@[simp] theorem setSlot_waitReg (k : Fin 16) (a : Word) : (s.setSlot k a).waitReg = s.waitReg := rfl
@[simp] theorem setSlot_runMode (k : Fin 16) (a : Word) : (s.setSlot k a).runMode = s.runMode := rfl
@[simp] theorem setSlot_opcode (k : Fin 16) (a : Word) : (s.setSlot k a).opcode = s.opcode := rfl
@[simp] theorem setSlot_fault (k : Fin 16) (a : Word) : (s.setSlot k a).fault = s.fault := rfl
@[simp] theorem setSlot_draws (k : Fin 16) (a : Word) : (s.setSlot k a).draws = s.draws := rfl
@[simp] theorem setSlot_events (k : Fin 16) (a : Word) : (s.setSlot k a).events = s.events := rfl
@[simp] theorem setSlot_getV (k : Fin 16) (a : Word) (y : Reg) : (s.setSlot k a).getV y = s.getV y := rfl
@[simp] theorem setSlot_getKey (k : Fin 16) (a : Word) (j : Key) : (s.setSlot k a).getKey j = s.getKey j := rfl

/-! ### `setSp` -/

@[simp] theorem setSp_v (k : Fin 17) : (s.setSp k).v = s.v := rfl
@[simp] theorem setSp_i (k : Fin 17) : (s.setSp k).i = s.i := rfl
@[simp] theorem setSp_pc (k : Fin 17) : (s.setSp k).pc = s.pc := rfl
@[simp] theorem setSp_sp (k : Fin 17) : (s.setSp k).sp = k := rfl
@[simp] theorem setSp_stack (k : Fin 17) : (s.setSp k).stack = s.stack := rfl
@[simp] theorem setSp_dt (k : Fin 17) : (s.setSp k).dt = s.dt := rfl
@[simp] theorem setSp_st (k : Fin 17) : (s.setSp k).st = s.st := rfl
@[simp] theorem setSp_mem (k : Fin 17) : (s.setSp k).mem = s.mem := rfl
@[simp] theorem setSp_disp (k : Fin 17) : (s.setSp k).disp = s.disp := rfl
@[simp] theorem setSp_redraw (k : Fin 17) : (s.setSp k).redraw = s.redraw := rfl
@[simp] theorem setSp_key (k : Fin 17) : (s.setSp k).key = s.key := rfl
@[simp] theorem setSp_lastKey (k : Fin 17) : (s.setSp k).lastKey = s.lastKey := rfl
@[simp] theorem setSp_waiting (k : Fin 17) : (s.setSp k).waiting = s.waiting := rfl
@[simp] theorem setSp_waitReg (k : Fin 17) : (s.setSp k).waitReg = s.waitReg := rfl
@[simp] theorem setSp_runMode (k : Fin 17) : (s.setSp k).runMode = s.runMode := rfl
@[simp] theorem setSp_opcode (k : Fin 17) : (s.setSp k).opcode = s.opcode := rfl
@[simp] theorem setSp_fault (k : Fin 17) : (s.setSp k).fault = s.fault := rfl
@[simp] theorem setSp_draws (k : Fin 17) : (s.setSp k).draws = s.draws := rfl
@[simp] theorem setSp_events (k : Fin 17) : (s.setSp k).events = s.events := rfl
@[simp] theorem setSp_getV (k : Fin 17) (y : Reg) : (s.setSp k).getV y = s.getV y := rfl
@[simp] theorem setSp_getKey (k : Fin 17) (j : Key) : (s.setSp k).getKey j = s.getKey j := rfl

/-! ### `setDt` -/

@[simp] theorem setDt_v (b : Byte) : (s.setDt b).v = s.v := rfl
@[simp] theorem setDt_i (b : Byte) : (s.setDt b).i = s.i := rfl
@[simp] theorem setDt_pc (b : Byte) : (s.setDt b).pc = s.pc := rfl
@[simp] theorem setDt_sp (b : Byte) : (s.setDt b).sp = s.sp := rfl
@[simp] theorem setDt_stack (b : Byte) : (s.setDt b).stack = s.stack := rfl
@[simp] theorem setDt_dt (b : Byte) : (s.setDt b).dt = b := rfl
@[simp] theorem setDt_st (b : Byte) : (s.setDt b).st = s.st := rfl
@[simp] theorem setDt_mem (b : Byte) : (s.setDt b).mem = s.mem := rfl
@[simp] theorem setDt_disp (b : Byte) : (s.setDt b).disp = s.disp := rfl
@[simp] theorem setDt_redraw (b : Byte) : (s.setDt b).redraw = s.redraw := rfl
@[simp] theorem setDt_key (b : Byte) : (s.setDt b).key = s.key := rfl
@[simp] theorem setDt_lastKey (b : Byte) : (s.setDt b).lastKey = s.lastKey := rfl
@[simp] theorem setDt_waiting (b : Byte) : (s.setDt b).waiting = s.waiting := rfl
@[simp] theorem setDt_waitReg (b : Byte) : (s.setDt b).waitReg = s.waitReg := rfl
@[simp] theorem setDt_runMode (b : Byte) : (s.setDt b).runMode = s.runMode := rfl
@[simp] theorem setDt_opcode (b : Byte) : (s.setDt b).opcode = s.opcode := rfl
@[simp] theorem setDt_fault (b : Byte) : (s.setDt b).fault = s.fault := rfl
@[simp] theorem setDt_draws (b : Byte) : (s.setDt b).draws = s.draws := rfl
@[simp] theorem setDt_events (b : Byte) : (s.setDt b).events = s.events := rfl
@[simp] theorem setDt_getV (b : Byte) (y : Reg) : (s.setDt b).getV y = s.getV y := rfl
@[simp] theorem setDt_getKey (b : Byte) (j : Key) : (s.setDt b).getKey j = s.getKey j := rfl

/-! ### `setSt` -/

@[simp] theorem setSt_v (b : Byte) : (s.setSt b).v = s.v := rfl
@[simp] theorem setSt_i (b : Byte) : (s.setSt b).i = s.i := rfl
@[simp] theorem setSt_pc (b : Byte) : (s.setSt b).pc = s.pc := rfl
@[simp] theorem setSt_sp (b : Byte) : (s.setSt b).sp = s.sp := rfl
@[simp] theorem setSt_stack (b : Byte) : (s.setSt b).stack = s.stack := rfl
@[simp] theorem setSt_dt (b : Byte) : (s.setSt b).dt = s.dt := rfl
@[simp] theorem setSt_st (b : Byte) : (s.setSt b).st = b := rfl
@[simp] theorem setSt_mem (b : Byte) : (s.setSt b).mem = s.mem := rfl
@[simp] theorem setSt_disp (b : Byte) : (s.setSt b).disp = s.disp := rfl
@[simp] theorem setSt_redraw (b : Byte) : (s.setSt b).redraw = s.redraw := rfl
@[simp] theorem setSt_key (b : Byte) : (s.setSt b).key = s.key := rfl
@[simp] theorem setSt_lastKey (b : Byte) : (s.setSt b).lastKey = s.lastKey := rfl
@[simp] theorem setSt_waiting (b : Byte) : (s.setSt b).waiting = s.waiting := rfl
@[simp] theorem setSt_waitReg (b : Byte) : (s.setSt b).waitReg = s.waitReg := rfl
@[simp] theorem setSt_runMode (b : Byte) : (s.setSt b).runMode = s.runMode := rfl
@[simp] theorem setSt_opcode (b : Byte) : (s.setSt b).opcode = s.opcode := rfl
@[simp] theorem setSt_fault (b : Byte) : (s.setSt b).fault = s.fault := rfl
@[simp] theorem setSt_draws (b : Byte) : (s.setSt b).draws = s.draws := rfl
@[simp] theorem setSt_events (b : Byte) : (s.setSt b).events = s.events := rfl
@[simp] theorem setSt_getV (b : Byte) (y : Reg) : (s.setSt b).getV y = s.getV y := rfl
@[simp] theorem setSt_getKey (b : Byte) (j : Key) : (s.setSt b).getKey j = s.getKey j := rfl

/-! ### `setMem` -/

@[simp] theorem setMem_v (m : Memory) : (s.setMem m).v = s.v := rfl
@[simp] theorem setMem_i (m : Memory) : (s.setMem m).i = s.i := rfl
@[simp] theorem setMem_pc (m : Memory) : (s.setMem m).pc = s.pc := rfl
@[simp] theorem setMem_sp (m : Memory) : (s.setMem m).sp = s.sp := rfl
@[simp] theorem setMem_stack (m : Memory) : (s.setMem m).stack = s.stack := rfl
@[simp] theorem setMem_dt (m : Memory) : (s.setMem m).dt = s.dt := rfl
@[simp] theorem setMem_st (m : Memory) : (s.setMem m).st = s.st := rfl
@[simp] theorem setMem_mem (m : Memory) : (s.setMem m).mem = m := rfl
@[simp] theorem setMem_disp (m : Memory) : (s.setMem m).disp = s.disp := rfl
@[simp] theorem setMem_redraw (m : Memory) : (s.setMem m).redraw = s.redraw := rfl
@[simp] theorem setMem_key (m : Memory) : (s.setMem m).key = s.key := rfl
@[simp] theorem setMem_lastKey (m : Memory) : (s.setMem m).lastKey = s.lastKey := rfl
@[simp] theorem setMem_waiting (m : Memory) : (s.setMem m).waiting = s.waiting := rfl
@[simp] theorem setMem_waitReg (m : Memory) : (s.setMem m).waitReg = s.waitReg := rfl
@[simp] theorem setMem_runMode (m : Memory) : (s.setMem m).runMode = s.runMode := rfl
@[simp] theorem setMem_opcode (m : Memory) : (s.setMem m).opcode = s.opcode := rfl
@[simp] theorem setMem_fault (m : Memory) : (s.setMem m).fault = s.fault := rfl
@[simp] theorem setMem_draws (m : Memory) : (s.setMem m).draws = s.draws := rfl
@[simp] theorem setMem_events (m : Memory) : (s.setMem m).events = s.events := rfl
@[simp] theorem setMem_getV (m : Memory) (y : Reg) : (s.setMem m).getV y = s.getV y := rfl
@[simp] theorem setMem_getKey (m : Memory) (j : Key) : (s.setMem m).getKey j = s.getKey j := rfl

/-! ### `setDisp` -/

@[simp] theorem setDisp_v (d : Display) : (s.setDisp d).v = s.v := rfl
@[simp] theorem setDisp_i (d : Display) : (s.setDisp d).i = s.i := rfl
@[simp] theorem setDisp_pc (d : Display) : (s.setDisp d).pc = s.pc := rfl
@[simp] theorem setDisp_sp (d : Display) : (s.setDisp d).sp = s.sp := rfl
@[simp] theorem setDisp_stack (d : Display) : (s.setDisp d).stack = s.stack := rfl
@[simp] theorem setDisp_dt (d : Display) : (s.setDisp d).dt = s.dt := rfl
@[simp] theorem setDisp_st (d : Display) : (s.setDisp d).st = s.st := rfl
@[simp] theorem setDisp_mem (d : Display) : (s.setDisp d).mem = s.mem := rfl
@[simp] theorem setDisp_disp (d : Display) : (s.setDisp d).disp = d := rfl
@[simp] theorem setDisp_redraw (d : Display) : (s.setDisp d).redraw = s.redraw := rfl
@[simp] theorem setDisp_key (d : Display) : (s.setDisp d).key = s.key := rfl
@[simp] theorem setDisp_lastKey (d : Display) : (s.setDisp d).lastKey = s.lastKey := rfl
@[simp] theorem setDisp_waiting (d : Display) : (s.setDisp d).waiting = s.waiting := rfl
@[simp] theorem setDisp_waitReg (d : Display) : (s.setDisp d).waitReg = s.waitReg := rfl
@[simp] theorem setDisp_runMode (d : Display) : (s.setDisp d).runMode = s.runMode := rfl
@[simp] theorem setDisp_opcode (d : Display) : (s.setDisp d).opcode = s.opcode := rfl
@[simp] theorem setDisp_fault (d : Display) : (s.setDisp d).fault = s.fault := rfl
@[simp] theorem setDisp_draws (d : Display) : (s.setDisp d).draws = s.draws := rfl
@[simp] theorem setDisp_events (d : Display) : (s.setDisp d).events = s.events := rfl
@[simp] theorem setDisp_getV (d : Display) (y : Reg) : (s.setDisp d).getV y = s.getV y := rfl
@[simp] theorem setDisp_getKey (d : Display) (j : Key) : (s.setDisp d).getKey j = s.getKey j := rfl

/-! ### `setRedraw` -/

@[simp] theorem setRedraw_v (b : Bool) : (s.setRedraw b).v = s.v := rfl
@[simp] theorem setRedraw_i (b : Bool) : (s.setRedraw b).i = s.i := rfl
@[simp] theorem setRedraw_pc (b : Bool) : (s.setRedraw b).pc = s.pc := rfl
@[simp] theorem setRedraw_sp (b : Bool) : (s.setRedraw b).sp = s.sp := rfl
@[simp] theorem setRedraw_stack (b : Bool) : (s.setRedraw b).stack = s.stack := rfl
@[simp] theorem setRedraw_dt (b : Bool) : (s.setRedraw b).dt = s.dt := rfl
@[simp] theorem setRedraw_st (b : Bool) : (s.setRedraw b).st = s.st := rfl
@[simp] theorem setRedraw_mem (b : Bool) : (s.setRedraw b).mem = s.mem := rfl
@[simp] theorem setRedraw_disp (b : Bool) : (s.setRedraw b).disp = s.disp := rfl
@[simp] theorem setRedraw_redraw (b : Bool) : (s.setRedraw b).redraw = b := rfl
@[simp] theorem setRedraw_key (b : Bool) : (s.setRedraw b).key = s.key := rfl
@[simp] theorem setRedraw_lastKey (b : Bool) : (s.setRedraw b).lastKey = s.lastKey := rfl
@[simp] theorem setRedraw_waiting (b : Bool) : (s.setRedraw b).waiting = s.waiting := rfl
@[simp] theorem setRedraw_waitReg (b : Bool) : (s.setRedraw b).waitReg = s.waitReg := rfl
@[simp] theorem setRedraw_runMode (b : Bool) : (s.setRedraw b).runMode = s.runMode := rfl
@[simp] theorem setRedraw_opcode (b : Bool) : (s.setRedraw b).opcode = s.opcode := rfl
@[simp] theorem setRedraw_fault (b : Bool) : (s.setRedraw b).fault = s.fault := rfl
@[simp] theorem setRedraw_draws (b : Bool) : (s.setRedraw b).draws = s.draws := rfl
@[simp] theorem setRedraw_events (b : Bool) : (s.setRedraw b).events = s.events := rfl
@[simp] theorem setRedraw_getV (b : Bool) (y : Reg) : (s.setRedraw b).getV y = s.getV y := rfl
@[simp] theorem setRedraw_getKey (b : Bool) (j : Key) : (s.setRedraw b).getKey j = s.getKey j := rfl

/-! ### `setKey` -/

@[simp] theorem setKey_v (k : Key) (b : Bool) : (s.setKey k b).v = s.v := rfl
@[simp] theorem setKey_i (k : Key) (b : Bool) : (s.setKey k b).i = s.i := rfl
@[simp] theorem setKey_pc (k : Key) (b : Bool) : (s.setKey k b).pc = s.pc := rfl
@[simp] theorem setKey_sp (k : Key) (b : Bool) : (s.setKey k b).sp = s.sp := rfl
@[simp] theorem setKey_stack (k : Key) (b : Bool) : (s.setKey k b).stack = s.stack := rfl
@[simp] theorem setKey_dt (k : Key) (b : Bool) : (s.setKey k b).dt = s.dt := rfl
@[simp] theorem setKey_st (k : Key) (b : Bool) : (s.setKey k b).st = s.st := rfl
@[simp] theorem setKey_mem (k : Key) (b : Bool) : (s.setKey k b).mem = s.mem := rfl
@[simp] theorem setKey_disp (k : Key) (b : Bool) : (s.setKey k b).disp = s.disp := rfl
@[simp] theorem setKey_redraw (k : Key) (b : Bool) : (s.setKey k b).redraw = s.redraw := rfl
@[simp] theorem setKey_lastKey (k : Key) (b : Bool) : (s.setKey k b).lastKey = s.lastKey := rfl
@[simp] theorem setKey_waiting (k : Key) (b : Bool) : (s.setKey k b).waiting = s.waiting := rfl
@[simp] theorem setKey_waitReg (k : Key) (b : Bool) : (s.setKey k b).waitReg = s.waitReg := rfl
@[simp] theorem setKey_runMode (k : Key) (b : Bool) : (s.setKey k b).runMode = s.runMode := rfl
@[simp] theorem setKey_opcode (k : Key) (b : Bool) : (s.setKey k b).opcode = s.opcode := rfl
@[simp] theorem setKey_fault (k : Key) (b : Bool) : (s.setKey k b).fault = s.fault := rfl
@[simp] theorem setKey_draws (k : Key) (b : Bool) : (s.setKey k b).draws = s.draws := rfl
@[simp] theorem setKey_events (k : Key) (b : Bool) : (s.setKey k b).events = s.events := rfl
@[simp] theorem setKey_getV (k : Key) (b : Bool) (y : Reg) : (s.setKey k b).getV y = s.getV y := rfl

/-! ### `setLastKey` -/

@[simp] theorem setLastKey_v (k : Key) : (s.setLastKey k).v = s.v := rfl
@[simp] theorem setLastKey_i (k : Key) : (s.setLastKey k).i = s.i := rfl
@[simp] theorem setLastKey_pc (k : Key) : (s.setLastKey k).pc = s.pc := rfl
@[simp] theorem setLastKey_sp (k : Key) : (s.setLastKey k).sp = s.sp := rfl
@[simp] theorem setLastKey_stack (k : Key) : (s.setLastKey k).stack = s.stack := rfl
@[simp] theorem setLastKey_dt (k : Key) : (s.setLastKey k).dt = s.dt := rfl
@[simp] theorem setLastKey_st (k : Key) : (s.setLastKey k).st = s.st := rfl
@[simp] theorem setLastKey_mem (k : Key) : (s.setLastKey k).mem = s.mem := rfl
@[simp] theorem setLastKey_disp (k : Key) : (s.setLastKey k).disp = s.disp := rfl
@[simp] theorem setLastKey_redraw (k : Key) : (s.setLastKey k).redraw = s.redraw := rfl
@[simp] theorem setLastKey_key (k : Key) : (s.setLastKey k).key = s.key := rfl
@[simp] theorem setLastKey_lastKey (k : Key) : (s.setLastKey k).lastKey = k := rfl
@[simp] theorem setLastKey_waiting (k : Key) : (s.setLastKey k).waiting = s.waiting := rfl
@[simp] theorem setLastKey_waitReg (k : Key) : (s.setLastKey k).waitReg = s.waitReg := rfl
@[simp] theorem setLastKey_runMode (k : Key) : (s.setLastKey k).runMode = s.runMode := rfl
@[simp] theorem setLastKey_opcode (k : Key) : (s.setLastKey k).opcode = s.opcode := rfl
@[simp] theorem setLastKey_fault (k : Key) : (s.setLastKey k).fault = s.fault := rfl
@[simp] theorem setLastKey_draws (k : Key) : (s.setLastKey k).draws = s.draws := rfl
@[simp] theorem setLastKey_events (k : Key) : (s.setLastKey k).events = s.events := rfl
@[simp] theorem setLastKey_getV (k : Key) (y : Reg) : (s.setLastKey k).getV y = s.getV y := rfl
@[simp] theorem setLastKey_getKey (k : Key) (j : Key) : (s.setLastKey k).getKey j = s.getKey j := rfl

/-! ### `setWaiting` -/

@[simp] theorem setWaiting_v (b : Bool) : (s.setWaiting b).v = s.v := rfl
@[simp] theorem setWaiting_i (b : Bool) : (s.setWaiting b).i = s.i := rfl
@[simp] theorem setWaiting_pc (b : Bool) : (s.setWaiting b).pc = s.pc := rfl
@[simp] theorem setWaiting_sp (b : Bool) : (s.setWaiting b).sp = s.sp := rfl
@[simp] theorem setWaiting_stack (b : Bool) : (s.setWaiting b).stack = s.stack := rfl
@[simp] theorem setWaiting_dt (b : Bool) : (s.setWaiting b).dt = s.dt := rfl
@[simp] theorem setWaiting_st (b : Bool) : (s.setWaiting b).st = s.st := rfl
@[simp] theorem setWaiting_mem (b : Bool) : (s.setWaiting b).mem = s.mem := rfl
@[simp] theorem setWaiting_disp (b : Bool) : (s.setWaiting b).disp = s.disp := rfl
@[simp] theorem setWaiting_redraw (b : Bool) : (s.setWaiting b).redraw = s.redraw := rfl
@[simp] theorem setWaiting_key (b : Bool) : (s.setWaiting b).key = s.key := rfl
@[simp] theorem setWaiting_lastKey (b : Bool) : (s.setWaiting b).lastKey = s.lastKey := rfl
@[simp] theorem setWaiting_waiting (b : Bool) : (s.setWaiting b).waiting = b := rfl
@[simp] theorem setWaiting_waitReg (b : Bool) : (s.setWaiting b).waitReg = s.waitReg := rfl
@[simp] theorem setWaiting_runMode (b : Bool) : (s.setWaiting b).runMode = s.runMode := rfl
@[simp] theorem setWaiting_opcode (b : Bool) : (s.setWaiting b).opcode = s.opcode := rfl
@[simp] theorem setWaiting_fault (b : Bool) : (s.setWaiting b).fault = s.fault := rfl
@[simp] theorem setWaiting_draws (b : Bool) : (s.setWaiting b).draws = s.draws := rfl
@[simp] theorem setWaiting_events (b : Bool) : (s.setWaiting b).events = s.events := rfl
@[simp] theorem setWaiting_getV (b : Bool) (y : Reg) : (s.setWaiting b).getV y = s.getV y := rfl
@[simp] theorem setWaiting_getKey (b : Bool) (j : Key) : (s.setWaiting b).getKey j = s.getKey j := rfl

/-! ### `setWaitReg` -/

@[simp] theorem setWaitReg_v (x : Reg) : (s.setWaitReg x).v = s.v := rfl
@[simp] theorem setWaitReg_i (x : Reg) : (s.setWaitReg x).i = s.i := rfl
@[simp] theorem setWaitReg_pc (x : Reg) : (s.setWaitReg x).pc = s.pc := rfl
@[simp] theorem setWaitReg_sp (x : Reg) : (s.setWaitReg x).sp = s.sp := rfl
@[simp] theorem setWaitReg_stack (x : Reg) : (s.setWaitReg x).stack = s.stack := rfl
@[simp] theorem setWaitReg_dt (x : Reg) : (s.setWaitReg x).dt = s.dt := rfl
@[simp] theorem setWaitReg_st (x : Reg) : (s.setWaitReg x).st = s.st := rfl
@[simp] theorem setWaitReg_mem (x : Reg) : (s.setWaitReg x).mem = s.mem := rfl
@[simp] theorem setWaitReg_disp (x : Reg) : (s.setWaitReg x).disp = s.disp := rfl
@[simp] theorem setWaitReg_redraw (x : Reg) : (s.setWaitReg x).redraw = s.redraw := rfl
@[simp] theorem setWaitReg_key (x : Reg) : (s.setWaitReg x).key = s.key := rfl
@[simp] theorem setWaitReg_lastKey (x : Reg) : (s.setWaitReg x).lastKey = s.lastKey := rfl
@[simp] theorem setWaitReg_waiting (x : Reg) : (s.setWaitReg x).waiting = s.waiting := rfl
@[simp] theorem setWaitReg_waitReg (x : Reg) : (s.setWaitReg x).waitReg = x := rfl
@[simp] theorem setWaitReg_runMode (x : Reg) : (s.setWaitReg x).runMode = s.runMode := rfl
@[simp] theorem setWaitReg_opcode (x : Reg) : (s.setWaitReg x).opcode = s.opcode := rfl
@[simp] theorem setWaitReg_fault (x : Reg) : (s.setWaitReg x).fault = s.fault := rfl
@[simp] theorem setWaitReg_draws (x : Reg) : (s.setWaitReg x).draws = s.draws := rfl
@[simp] theorem setWaitReg_events (x : Reg) : (s.setWaitReg x).events = s.events := rfl
@[simp] theorem setWaitReg_getV (x : Reg) (y : Reg) : (s.setWaitReg x).getV y = s.getV y := rfl
@[simp] theorem setWaitReg_getKey (x : Reg) (j : Key) : (s.setWaitReg x).getKey j = s.getKey j := rfl

/-! ### `setRunMode` -/

@[simp] theorem setRunMode_v (m : RunMode) : (s.setRunMode m).v = s.v := rfl
@[simp] theorem setRunMode_i (m : RunMode) : (s.setRunMode m).i = s.i := rfl
@[simp] theorem setRunMode_pc (m : RunMode) : (s.setRunMode m).pc = s.pc := rfl
@[simp] theorem setRunMode_sp (m : RunMode) : (s.setRunMode m).sp = s.sp := rfl
@[simp] theorem setRunMode_stack (m : RunMode) : (s.setRunMode m).stack = s.stack := rfl
@[simp] theorem setRunMode_dt (m : RunMode) : (s.setRunMode m).dt = s.dt := rfl
@[simp] theorem setRunMode_st (m : RunMode) : (s.setRunMode m).st = s.st := rfl
@[simp] theorem setRunMode_mem (m : RunMode) : (s.setRunMode m).mem = s.mem := rfl
@[simp] theorem setRunMode_disp (m : RunMode) : (s.setRunMode m).disp = s.disp := rfl
@[simp] theorem setRunMode_redraw (m : RunMode) : (s.setRunMode m).redraw = s.redraw := rfl
@[simp] theorem setRunMode_key (m : RunMode) : (s.setRunMode m).key = s.key := rfl
@[simp] theorem setRunMode_lastKey (m : RunMode) : (s.setRunMode m).lastKey = s.lastKey := rfl
@[simp] theorem setRunMode_waiting (m : RunMode) : (s.setRunMode m).waiting = s.waiting := rfl
@[simp] theorem setRunMode_waitReg (m : RunMode) : (s.setRunMode m).waitReg = s.waitReg := rfl
@[simp] theorem setRunMode_runMode (m : RunMode) : (s.setRunMode m).runMode = m := rfl
@[simp] theorem setRunMode_opcode (m : RunMode) : (s.setRunMode m).opcode = s.opcode := rfl
@[simp] theorem setRunMode_fault (m : RunMode) : (s.setRunMode m).fault = s.fault := rfl
@[simp] theorem setRunMode_draws (m : RunMode) : (s.setRunMode m).draws = s.draws := rfl
@[simp] theorem setRunMode_events (m : RunMode) : (s.setRunMode m).events = s.events := rfl
@[simp] theorem setRunMode_getV (m : RunMode) (y : Reg) : (s.setRunMode m).getV y = s.getV y := rfl
@[simp] theorem setRunMode_getKey (m : RunMode) (j : Key) : (s.setRunMode m).getKey j = s.getKey j := rfl

/-! ### `setOpcode` -/

@[simp] theorem setOpcode_v (w : Word) : (s.setOpcode w).v = s.v := rfl
@[simp] theorem setOpcode_i (w : Word) : (s.setOpcode w).i = s.i := rfl
@[simp] theorem setOpcode_pc (w : Word) : (s.setOpcode w).pc = s.pc := rfl
@[simp] theorem setOpcode_sp (w : Word) : (s.setOpcode w).sp = s.sp := rfl
@[simp] theorem setOpcode_stack (w : Word) : (s.setOpcode w).stack = s.stack := rfl
@[simp] theorem setOpcode_dt (w : Word) : (s.setOpcode w).dt = s.dt := rfl
@[simp] theorem setOpcode_st (w : Word) : (s.setOpcode w).st = s.st := rfl
@[simp] theorem setOpcode_mem (w : Word) : (s.setOpcode w).mem = s.mem := rfl
@[simp] theorem setOpcode_disp (w : Word) : (s.setOpcode w).disp = s.disp := rfl
@[simp] theorem setOpcode_redraw (w : Word) : (s.setOpcode w).redraw = s.redraw := rfl
@[simp] theorem setOpcode_key (w : Word) : (s.setOpcode w).key = s.key := rfl
@[simp] theorem setOpcode_lastKey (w : Word) : (s.setOpcode w).lastKey = s.lastKey := rfl
@[simp] theorem setOpcode_waiting (w : Word) : (s.setOpcode w).waiting = s.waiting := rfl
@[simp] theorem setOpcode_waitReg (w : Word) : (s.setOpcode w).waitReg = s.waitReg := rfl
@[simp] theorem setOpcode_runMode (w : Word) : (s.setOpcode w).runMode = s.runMode := rfl
@[simp] theorem setOpcode_opcode (w : Word) : (s.setOpcode w).opcode = w := rfl
@[simp] theorem setOpcode_fault (w : Word) : (s.setOpcode w).fault = s.fault := rfl
@[simp] theorem setOpcode_draws (w : Word) : (s.setOpcode w).draws = s.draws := rfl
@[simp] theorem setOpcode_events (w : Word) : (s.setOpcode w).events = s.events := rfl
@[simp] theorem setOpcode_getV (w : Word) (y : Reg) : (s.setOpcode w).getV y = s.getV y := rfl
@[simp] theorem setOpcode_getKey (w : Word) (j : Key) : (s.setOpcode w).getKey j = s.getKey j := rfl

/-! ### `raise` -/

@[simp] theorem raise_v (c : FaultCode) : (s.raise c).v = s.v := rfl
@[simp] theorem raise_i (c : FaultCode) : (s.raise c).i = s.i := rfl
@[simp] theorem raise_pc (c : FaultCode) : (s.raise c).pc = s.pc := rfl
@[simp] theorem raise_sp (c : FaultCode) : (s.raise c).sp = s.sp := rfl
@[simp] theorem raise_stack (c : FaultCode) : (s.raise c).stack = s.stack := rfl
@[simp] theorem raise_dt (c : FaultCode) : (s.raise c).dt = s.dt := rfl
@[simp] theorem raise_st (c : FaultCode) : (s.raise c).st = s.st := rfl
@[simp] theorem raise_mem (c : FaultCode) : (s.raise c).mem = s.mem := rfl
@[simp] theorem raise_disp (c : FaultCode) : (s.raise c).disp = s.disp := rfl
@[simp] theorem raise_redraw (c : FaultCode) : (s.raise c).redraw = s.redraw := rfl
@[simp] theorem raise_key (c : FaultCode) : (s.raise c).key = s.key := rfl
@[simp] theorem raise_lastKey (c : FaultCode) : (s.raise c).lastKey = s.lastKey := rfl
@[simp] theorem raise_waiting (c : FaultCode) : (s.raise c).waiting = s.waiting := rfl
@[simp] theorem raise_waitReg (c : FaultCode) : (s.raise c).waitReg = s.waitReg := rfl
@[simp] theorem raise_runMode (c : FaultCode) : (s.raise c).runMode = s.runMode := rfl
@[simp] theorem raise_opcode (c : FaultCode) : (s.raise c).opcode = s.opcode := rfl
@[simp] theorem raise_fault (c : FaultCode) : (s.raise c).fault = c := rfl
@[simp] theorem raise_draws (c : FaultCode) : (s.raise c).draws = s.draws := rfl
@[simp] theorem raise_events (c : FaultCode) : (s.raise c).events = s.events := rfl
@[simp] theorem raise_getV (c : FaultCode) (y : Reg) : (s.raise c).getV y = s.getV y := rfl
@[simp] theorem raise_getKey (c : FaultCode) (j : Key) : (s.raise c).getKey j = s.getKey j := rfl

/-! ### `nextDraw` -/

@[simp] theorem nextDraw_v : s.nextDraw.v = s.v := rfl
@[simp] theorem nextDraw_i : s.nextDraw.i = s.i := rfl
@[simp] theorem nextDraw_pc : s.nextDraw.pc = s.pc := rfl
@[simp] theorem nextDraw_sp : s.nextDraw.sp = s.sp := rfl
@[simp] theorem nextDraw_stack : s.nextDraw.stack = s.stack := rfl
@[simp] theorem nextDraw_dt : s.nextDraw.dt = s.dt := rfl
@[simp] theorem nextDraw_st : s.nextDraw.st = s.st := rfl
@[simp] theorem nextDraw_mem : s.nextDraw.mem = s.mem := rfl
@[simp] theorem nextDraw_disp : s.nextDraw.disp = s.disp := rfl
@[simp] theorem nextDraw_redraw : s.nextDraw.redraw = s.redraw := rfl
@[simp] theorem nextDraw_key : s.nextDraw.key = s.key := rfl
@[simp] theorem nextDraw_lastKey : s.nextDraw.lastKey = s.lastKey := rfl
@[simp] theorem nextDraw_waiting : s.nextDraw.waiting = s.waiting := rfl
@[simp] theorem nextDraw_waitReg : s.nextDraw.waitReg = s.waitReg := rfl
@[simp] theorem nextDraw_runMode : s.nextDraw.runMode = s.runMode := rfl
@[simp] theorem nextDraw_opcode : s.nextDraw.opcode = s.opcode := rfl
@[simp] theorem nextDraw_fault : s.nextDraw.fault = s.fault := rfl
@[simp] theorem nextDraw_draws : s.nextDraw.draws = s.draws + 1 := rfl
@[simp] theorem nextDraw_events : s.nextDraw.events = s.events := rfl
@[simp] theorem nextDraw_getV (y : Reg) : s.nextDraw.getV y = s.getV y := rfl
@[simp] theorem nextDraw_getKey (j : Key) : s.nextDraw.getKey j = s.getKey j := rfl

/-! ### `pulse` -/

@[simp] theorem pulse_v (e : Event) : (s.pulse e).v = s.v := rfl
@[simp] theorem pulse_i (e : Event) : (s.pulse e).i = s.i := rfl
@[simp] theorem pulse_pc (e : Event) : (s.pulse e).pc = s.pc := rfl
@[simp] theorem pulse_sp (e : Event) : (s.pulse e).sp = s.sp := rfl
@[simp] theorem pulse_stack (e : Event) : (s.pulse e).stack = s.stack := rfl
@[simp] theorem pulse_dt (e : Event) : (s.pulse e).dt = s.dt := rfl
@[simp] theorem pulse_st (e : Event) : (s.pulse e).st = s.st := rfl
@[simp] theorem pulse_mem (e : Event) : (s.pulse e).mem = s.mem := rfl
@[simp] theorem pulse_disp (e : Event) : (s.pulse e).disp = s.disp := rfl
@[simp] theorem pulse_redraw (e : Event) : (s.pulse e).redraw = s.redraw := rfl
@[simp] theorem pulse_key (e : Event) : (s.pulse e).key = s.key := rfl
@[simp] theorem pulse_lastKey (e : Event) : (s.pulse e).lastKey = s.lastKey := rfl
@[simp] theorem pulse_waiting (e : Event) : (s.pulse e).waiting = s.waiting := rfl
@[simp] theorem pulse_waitReg (e : Event) : (s.pulse e).waitReg = s.waitReg := rfl
@[simp] theorem pulse_runMode (e : Event) : (s.pulse e).runMode = s.runMode := rfl
@[simp] theorem pulse_opcode (e : Event) : (s.pulse e).opcode = s.opcode := rfl
@[simp] theorem pulse_fault (e : Event) : (s.pulse e).fault = s.fault := rfl
@[simp] theorem pulse_draws (e : Event) : (s.pulse e).draws = s.draws := rfl
@[simp] theorem pulse_events (e : Event) : (s.pulse e).events = e :: s.events := rfl
@[simp] theorem pulse_getV (e : Event) (y : Reg) : (s.pulse e).getV y = s.getV y := rfl
@[simp] theorem pulse_getKey (e : Event) (j : Key) : (s.pulse e).getKey j = s.getKey j := rfl

end Sys2Proof.Machine.State
end

