-- ==== Sys2Proof/Laws/Ops.lean ====
section
/-! SUPPORT. One lemma per shared operation: what it does, and that it does nothing else. -/

namespace Sys2Proof.Machine

/-! ### Blocks of registers -/

@[simp] theorem mem_allRegs (k : Reg) : k ∈ allRegs := by revert k; decide

@[simp] theorem mem_regsUpTo (x k : Reg) : k ∈ regsUpTo x ↔ k ≤ x := by revert x k; decide

@[simp] theorem length_regsUpTo (x : Reg) : (regsUpTo x).length = x.val + 1 := by revert x; decide

theorem getElem_regsUpTo (x : Reg) (k : Nat) (h : k < (regsUpTo x).length) :
    (regsUpTo x)[k] = ⟨k, by have := length_regsUpTo x; omega⟩ := by
  have hx : ∀ x : Reg, ∀ j : Fin 16, ∀ h : j.val < (regsUpTo x).length, (regsUpTo x)[j.val] = j := by decide
  exact hx x ⟨k, by have := length_regsUpTo x; omega⟩ h

namespace State

/-- A block load reads each listed register from its own address and changes no other register. -/
@[simp] theorem getV_loadBlock (s : State) (ks : List Reg) (y : Reg) :
    (s.loadBlock ks).getV y = if y ∈ ks then s.mem.read (s.dataAddr y) else s.getV y := by
  induction ks generalizing s with
  | nil => simp [loadBlock]
  | cons k ks ih =>
    rw [loadBlock, ih]
    by_cases h : y ∈ ks
    · simp [h, dataAddr]
    · by_cases hk : y = k <;> simp [h, hk, dataAddr]

/-- A block load changes nothing but general registers. -/
theorem loadBlock_eq (s : State) (ks : List Reg) : ∃ v, s.loadBlock ks = { s with v := v } := by
  induction ks generalizing s with
  | nil => exact ⟨s.v, rfl⟩
  | cons k ks ih =>
    obtain ⟨v, hv⟩ := ih (s.setV k (s.mem.read (s.dataAddr k)))
    exact ⟨v, by rw [loadBlock, hv]; rfl⟩

/-! ### Keys -/

@[simp] theorem mem_pressedKeys (s : State) (k : Key) : k ∈ s.pressedKeys ↔ s.getKey k = true := by
  simp [pressedKeys]

/-- No key is listed twice. -/
theorem nodup_pressedKeys (s : State) : s.pressedKeys.Nodup := List.Nodup.filter _ (by decide)

/-- The key number test of SKP and SKNP (45_keypad_timers.md R241). -/
theorem keyPressed_iff (s : State) (b : Byte) :
    s.keyPressed b = true ↔ ∃ h : b.toNat < 16, s.getKey ⟨b.toNat, h⟩ = true := by
  unfold keyPressed
  split <;> simp_all

/-! ### The key-wait service (40_cycle.md R124) -/

/-- With no key pressed the service changes nothing. -/
theorem keyWaitService_idle {s : State} (h : ∀ k, s.getKey k = false) : s.keyWaitService = s := by
  have : s.pressedKeys = [] := by
    rw [List.eq_nil_iff_forall_not_mem]
    intro k hk
    rw [mem_pressedKeys, h k] at hk
    exact Bool.false_ne_true hk
  simp [keyWaitService, this]

/-- With a key pressed the service ends the wait with a pressed key; a draw is taken exactly if there are several. -/
theorem keyWaitService_resolves {s : State} (h : ∃ k, s.getKey k = true) :
    ∃ k, s.getKey k = true ∧ ((s.keyWaitService = s.resolveKeyWait k ∧ ∀ j, s.getKey j = true → j = k) ∨
      (s.keyWaitService = s.nextDraw.resolveKeyWait k ∧ ∃ j, j ≠ k ∧ s.getKey j = true)) := by
  obtain ⟨k0, h0⟩ := h
  have hm : k0 ∈ s.pressedKeys := (mem_pressedKeys s k0).2 h0
  unfold keyWaitService
  match hp : s.pressedKeys with
  | [] => rw [hp] at hm; cases hm
  | [k] =>
    refine ⟨k, (mem_pressedKeys s k).1 (hp ▸ List.mem_singleton.2 rfl), .inl ⟨rfl, fun j hj => ?_⟩⟩
    have := (mem_pressedKeys s j).2 hj
    rw [hp] at this
    exact List.mem_singleton.1 this
  | k :: k' :: ks =>
    have hk : s.getKey k = true := (mem_pressedKeys s k).1 (by simp [hp])
    have hk' : s.getKey k' = true := (mem_pressedKeys s k').1 (by simp [hp])
    have hne : k ≠ k' := by
      have := nodup_pressedKeys s
      rw [hp] at this
      exact fun e => (List.nodup_cons.1 this).1 (by simp [e])
    refine ⟨_, (mem_pressedKeys s _).1 ?_, .inr ⟨rfl, ?_⟩⟩
    swap
    · by_cases e : k = (k :: k' :: ks).getD (Config.keyChoice s.draws % (k :: k' :: ks).length) k
      · exact ⟨k', fun e' => hne (e.trans e'.symm), hk'⟩
      · exact ⟨k, e, hk⟩
    have hlt : Config.keyChoice s.draws % (k :: k' :: ks).length < (k :: k' :: ks).length :=
      Nat.mod_lt _ (by simp)
    rw [List.getD_eq_getElem _ _ hlt, hp]
    exact List.getElem_mem hlt

/-! ### The timer tick (40_cycle.md R127) -/

/-- A timer goes down by one, never below 0. -/
@[simp] theorem toNat_tickDown (b : Byte) : (tickDown b).toNat = b.toNat - 1 := by
  revert b; decide

/-- A tick changes the timers and the events, each as R127 says, and nothing else. -/
theorem timerTick_eq (s : State) :
    s.timerTick = { s with dt := tickDown s.dt, st := tickDown s.st
                           events := if s.st = 1 then .tone :: s.events else s.events } := by
  simp only [timerTick]
  by_cases h : s.st = 1
  · rw [if_pos h, if_pos h]; rfl
  · rw [if_neg h, if_neg h]; rfl

end State

end Sys2Proof.Machine
end

