-- ==== Sys2Proof/Laws/Exec.lean ====
section
/-! SUPPORT. What one instruction can do: it raises its one fault, or it completes and writes what `mayWrite` lists. -/

namespace Sys2Proof.Machine

/-! ### Flags and conditions in numbers -/

@[simp] theorem toNat_greaterFlag (a b : Byte) : (greaterFlag a b).toNat = if a.toNat > b.toNat then 1 else 0 := by
  simp only [greaterFlag, flagByte]
  split <;> simp_all

@[simp] theorem toNat_carryFlag (a b : Byte) : (carryFlag a b).toNat = if a.toNat + b.toNat > 255 then 1 else 0 := by
  by_cases h : a.toNat + b.toNat > 255 <;> simp [carryFlag, flagByte, exactSum, h]

@[simp] theorem toNat_lowBitFlag (a : Byte) : (lowBitFlag a).toNat = a.toNat % 2 := by revert a; decide

@[simp] theorem toNat_highBitFlag (a : Byte) : (highBitFlag a).toNat = a.toNat / 128 := by revert a; decide

/-- A byte difference in numbers. -/
theorem toNat_byte_sub (a b : Byte) : (a - b).toNat = (256 + a.toNat - b.toNat) % 256 := by
  rw [BitVec.toNat_sub]
  have := a.isLt
  have := b.isLt
  congr 1
  omega

theorem State.spriteOutOfRange_iff (s : State) (n : Nibble) :
    s.spriteOutOfRange n = true ↔ n ≠ 0 ∧ 4096 ≤ s.i.toNat + n.toNat - 1 := by
  have hm : Config.memSize = 4096 := rfl
  have hd : s.dataAddr (n.toNat - 1) = s.i.toNat + (n.toNat - 1) := rfl
  have hn : n ≠ 0 ↔ n.toNat > 0 := by
    rw [ne_eq, ← BitVec.toNat_inj, show (0 : Nibble).toNat = 0 from rfl]
    omega
  rw [State.spriteOutOfRange, decide_eq_true_iff, hn]
  constructor <;> rintro ⟨a, b⟩ <;> exact ⟨a, by omega⟩

/-! ### Completing or raising -/

/-- The fault an instruction raises in a state, `none` where it completes (60_exceptions.md R293 to R295). -/
def faultOf (s : State) : Instr → FaultCode
  | .ret => if s.sp.val = 0 then .stackUnderflow else .none
  | .call _ => if s.sp.val = 16 then .stackOverflow else .none
  | .drw _ _ n => if s.spriteOutOfRange n = true then .addressOutOfRange else .none
  | .ldVxMem x => if s.dataAddr x ≥ Config.memSize then .addressOutOfRange else .none
  | .cls | .jp _ | .seImm _ _ | .sneImm _ _ | .seReg _ _ | .sneReg _ _ | .jpV0 _ | .ldImm _ _ | .addImm _ _ | .ldReg _ _
  | .orReg _ _ | .andReg _ _ | .xorReg _ _ | .addReg _ _ | .sub _ _ | .shr _ _ | .subn _ _ | .shl _ _ | .rnd _ _ | .ldI _
  | .addI _ | .ldF _ | .ldB _ | .ldMemVx _ | .skp _ | .sknp _ | .ldVxDt _ | .ldVxK _ | .ldDtVx _ | .ldStVx _ => .none

/-- An instruction that raises does nothing else (60_exceptions.md R292). -/
theorem exec_of_fault {i : Instr} {s : State} (h : faultOf s i ≠ .none) : exec i s = .next (s.raise (faultOf s i)) := by
  cases i with
  | ret =>
    by_cases hc : s.sp.val = 0
    · simp only [exec, execRet, faultOf]; rw [dif_pos hc, if_pos hc]
    · exact absurd (if_neg hc) h
  | call nnn =>
    by_cases hc : s.sp.val = 16
    · simp only [exec, execCall, faultOf]; rw [dif_pos hc, if_pos hc]
    · exact absurd (if_neg hc) h
  | drw x y n =>
    by_cases hc : s.spriteOutOfRange n = true
    · simp only [exec, execDrw, faultOf]; rw [if_pos hc, if_pos hc]
    · exact absurd (if_neg hc) h
  | ldVxMem x =>
    by_cases hc : s.dataAddr x ≥ Config.memSize
    · simp only [exec, execLdVxMem, faultOf]; rw [if_pos hc, if_pos hc]
    · exact absurd (if_neg hc) h
  | _ => exact absurd rfl h

/-- What every completed instruction leaves alone, as data. -/
structure Completes (i : Instr) (s t : State) : Prop where
  frame : UnchangedExcept (mayWrite i) s t
  wf : s.mem.wf → t.mem.wf
  fault : t.fault = s.fault
  opcode : t.opcode = s.opcode
  runMode : t.runMode = s.runMode
  events : t.events = s.events
  key : t.key = s.key

/-- An instruction that raises no fault completes, and writes only what `mayWrite` lists. -/
theorem exec_of_no_fault {i : Instr} {s : State} (h : faultOf s i = .none) :
    ∃ t, exec i s = .next t ∧ Completes i s t := by
  have hne : ∀ c : FaultCode, c ≠ .none → ∀ p : Prop, ∀ _ : Decidable p, (if p then c else .none) = .none → ¬p := by
    intro c hc p _ hi hp
    rw [if_pos hp] at hi
    exact hc hi
  cases i with
  | ret =>
    have hc := hne _ (by decide) _ _ h
    refine ⟨_, dif_neg hc, ?_, id, rfl, rfl, rfl, rfl, rfl⟩
    intro e he; cases e <;> simp_all [SameElem, mayWrite]
  | call nnn =>
    have hc := hne _ (by decide) _ _ h
    refine ⟨_, dif_neg hc, ?_, id, rfl, rfl, rfl, rfl, rfl⟩
    intro e he; cases e <;> simp_all [SameElem, mayWrite]
  | drw x y n =>
    have hc := hne _ (by decide) _ _ h
    refine ⟨_, if_neg hc, ?_, id, rfl, rfl, rfl, rfl, rfl⟩
    intro e he; cases e <;> simp_all [SameElem, mayWrite]
  | ldVxMem x =>
    have hc := hne _ (by decide) _ _ h
    obtain ⟨v, hv⟩ := s.loadBlock_eq (regsUpTo x)
    have hx : exec (.ldVxMem x) s = .next ((s.loadBlock (regsUpTo x)).advance 2) := if_neg hc
    rw [hv] at hx
    refine ⟨_, hx, ?_, id, rfl, rfl, rfl, rfl, rfl⟩
    intro e he; cases e <;> simp_all [SameElem, mayWrite, State.getKey]
  | ldB x =>
    refine ⟨_, rfl, ?_, fun h => Memory.wf_writeBytes _ _ h, rfl, rfl, rfl, rfl, rfl⟩
    intro e he; cases e <;> simp_all [SameElem, mayWrite, State.storeBytes]
  | ldMemVx x =>
    refine ⟨_, rfl, ?_, fun h => Memory.wf_writeBytes _ _ h, rfl, rfl, rfl, rfl, rfl⟩
    intro e he; cases e <;> simp_all [SameElem, mayWrite, State.storeBytes]
  | _ =>
    refine ⟨_, rfl, ?_, id, rfl, rfl, rfl, rfl, rfl⟩
    intro e he; cases e <;> simp_all [SameElem, mayWrite, State.loadV]

end Sys2Proof.Machine
end

