-- ==== Sys2Proof/Laws/Cycle.lean ====
section
/-! SUPPORT. What one cycle can do: the inversion of `runCycle`, and the small lemmas of its parts. -/

namespace Sys2Proof.Machine

@[simp] theorem mapNext_next (f : State → State) (s : State) : mapNext f (.next s) = .next (f s) := rfl

theorem mapNext_eq_next {f : State → State} {o : StepOutcome} {t : State} (h : mapNext f o = .next t) :
    ∃ u, o = .next u ∧ t = f u := by
  cases o with
  | next u => exact ⟨u, rfl, by simpa [mapNext, eq_comm] using h⟩
  | fault r => cases h
  | refused r => cases h

namespace State

/-! ### Fields that the tick, a raised fault and the end of a cycle leave alone -/

variable (s s0 : State)

@[simp] theorem timerTick_dt : s.timerTick.dt = tickDown s.dt := by rw [timerTick_eq]
@[simp] theorem timerTick_st : s.timerTick.st = tickDown s.st := by rw [timerTick_eq]
@[simp] theorem timerTick_events :
    s.timerTick.events = if s.st = 1 then .tone :: s.events else s.events := by rw [timerTick_eq]
@[simp] theorem timerTick_v : s.timerTick.v = s.v := by rw [timerTick_eq]
@[simp] theorem timerTick_getV (x : Reg) : s.timerTick.getV x = s.getV x := by simp [getV]
@[simp] theorem timerTick_i : s.timerTick.i = s.i := by rw [timerTick_eq]
@[simp] theorem timerTick_pc : s.timerTick.pc = s.pc := by rw [timerTick_eq]
@[simp] theorem timerTick_sp : s.timerTick.sp = s.sp := by rw [timerTick_eq]
@[simp] theorem timerTick_stack : s.timerTick.stack = s.stack := by rw [timerTick_eq]
@[simp] theorem timerTick_mem : s.timerTick.mem = s.mem := by rw [timerTick_eq]
@[simp] theorem timerTick_disp : s.timerTick.disp = s.disp := by rw [timerTick_eq]
@[simp] theorem timerTick_redraw : s.timerTick.redraw = s.redraw := by rw [timerTick_eq]
@[simp] theorem timerTick_key : s.timerTick.key = s.key := by rw [timerTick_eq]
@[simp] theorem timerTick_getKey (k : Key) : s.timerTick.getKey k = s.getKey k := by simp [getKey]
@[simp] theorem timerTick_lastKey : s.timerTick.lastKey = s.lastKey := by rw [timerTick_eq]
@[simp] theorem timerTick_waiting : s.timerTick.waiting = s.waiting := by rw [timerTick_eq]
@[simp] theorem timerTick_waitReg : s.timerTick.waitReg = s.waitReg := by rw [timerTick_eq]
@[simp] theorem timerTick_runMode : s.timerTick.runMode = s.runMode := by rw [timerTick_eq]
@[simp] theorem timerTick_opcode : s.timerTick.opcode = s.opcode := by rw [timerTick_eq]
@[simp] theorem timerTick_fault : s.timerTick.fault = s.fault := by rw [timerTick_eq]
@[simp] theorem timerTick_draws : s.timerTick.draws = s.draws := by rw [timerTick_eq]

/-- The end of a cycle writes `run_mode` alone. -/
theorem endCycle_eq :
    s0.endCycle s = { s with runMode := if s0.runMode = .singleStepPending then .paused else s.runMode } := by
  unfold endCycle
  split <;> simp [setRunMode]

@[simp] theorem endCycle_v : (s0.endCycle s).v = s.v := by rw [endCycle_eq]
@[simp] theorem endCycle_getV (x : Reg) : (s0.endCycle s).getV x = s.getV x := by simp [getV]
@[simp] theorem endCycle_i : (s0.endCycle s).i = s.i := by rw [endCycle_eq]
@[simp] theorem endCycle_pc : (s0.endCycle s).pc = s.pc := by rw [endCycle_eq]
@[simp] theorem endCycle_sp : (s0.endCycle s).sp = s.sp := by rw [endCycle_eq]
@[simp] theorem endCycle_stack : (s0.endCycle s).stack = s.stack := by rw [endCycle_eq]
@[simp] theorem endCycle_dt : (s0.endCycle s).dt = s.dt := by rw [endCycle_eq]
@[simp] theorem endCycle_st : (s0.endCycle s).st = s.st := by rw [endCycle_eq]
@[simp] theorem endCycle_mem : (s0.endCycle s).mem = s.mem := by rw [endCycle_eq]
@[simp] theorem endCycle_disp : (s0.endCycle s).disp = s.disp := by rw [endCycle_eq]
@[simp] theorem endCycle_redraw : (s0.endCycle s).redraw = s.redraw := by rw [endCycle_eq]
@[simp] theorem endCycle_key : (s0.endCycle s).key = s.key := by rw [endCycle_eq]
@[simp] theorem endCycle_getKey (k : Key) : (s0.endCycle s).getKey k = s.getKey k := by simp [getKey]
@[simp] theorem endCycle_lastKey : (s0.endCycle s).lastKey = s.lastKey := by rw [endCycle_eq]
@[simp] theorem endCycle_waiting : (s0.endCycle s).waiting = s.waiting := by rw [endCycle_eq]
@[simp] theorem endCycle_waitReg : (s0.endCycle s).waitReg = s.waitReg := by rw [endCycle_eq]
@[simp] theorem endCycle_opcode : (s0.endCycle s).opcode = s.opcode := by rw [endCycle_eq]
@[simp] theorem endCycle_fault : (s0.endCycle s).fault = s.fault := by rw [endCycle_eq]
@[simp] theorem endCycle_draws : (s0.endCycle s).draws = s.draws := by rw [endCycle_eq]
@[simp] theorem endCycle_events : (s0.endCycle s).events = s.events := by rw [endCycle_eq]
@[simp] theorem endCycle_runMode :
    (s0.endCycle s).runMode = if s0.runMode = .singleStepPending then .paused else s.runMode := by rw [endCycle_eq]

theorem tickUnlessFaulted_of_none {s : State} (h : s.fault = .none) : s.tickUnlessFaulted = s.timerTick := by
  simp [tickUnlessFaulted, h]

theorem tickUnlessFaulted_of_ne {s : State} (h : s.fault ≠ .none) : s.tickUnlessFaulted = s := by
  simp [tickUnlessFaulted, h]

/-! ### Fetch and gates -/

/-- The fetch reads two bytes when both lie below 4096 (40_cycle.md R123). -/
theorem fetchWord_eq_some {s : State} (h : s.pc.toNat + 1 < Config.memSize) :
    s.fetchWord = some (wordOfBytes (s.mem.read s.pc.toNat) (s.mem.read (s.pc.toNat + 1))) := by
  simp only [fetchWord]; rw [if_neg (by omega)]

theorem fetchWord_eq_none_iff (s : State) : s.fetchWord = none ↔ s.pc.toNat + 1 ≥ Config.memSize := by
  unfold fetchWord
  split <;> simp_all

/-- A fetched word had its address below 0x0FFF. -/
theorem pc_lt_of_fetchWord {s : State} {w : Word} (h : s.fetchWord = some w) : s.pc.toNat + 1 < Config.memSize := by
  by_contra hn
  rw [(fetchWord_eq_none_iff s).2 (by omega)] at h
  cases h

theorem gatesOpen_iff (s : State) : s.gatesOpen = true ↔ s.fault = .none ∧ s.runMode ≠ .paused := by
  simp [gatesOpen]

theorem executingWord_eq_some {s : State} {w : Word} :
    s.executingWord = some w ↔ s.gatesOpen = true ∧ s.waiting = false ∧ s.fetchWord = some w := by
  unfold executingWord
  cases s.gatesOpen <;> cases s.waiting <;> simp

theorem executing_eq_some {s : State} {i : Instr} :
    s.executing = some i ↔ ∃ w, s.executingWord = some w ∧ decodeWord w = .ok i := by
  unfold executing
  cases h : s.executingWord with
  | none => simp
  | some w => cases hd : decodeWord w <;> simp [Except.toOption, hd]

end State

open State

/-- A cycle that does not pass the gates changes nothing (40_cycle.md R120, R121). -/
theorem runCycle_of_gate {s : State} (h : s.gatesOpen = false) : runCycle s = .next s := by
  unfold runCycle
  by_cases hf : s.fault = .none
  · have hm : s.runMode = .paused := by
      by_contra hne
      rw [(gatesOpen_iff s).2 ⟨hf, hne⟩] at h
      cases h
    simp [hf, hm]
  · simp [hf]

/-- A cycle that passes the gates is the body, then the end of the cycle. -/
theorem runCycle_of_open {s : State} (h : s.gatesOpen = true) : runCycle s = mapNext s.endCycle (cycleBody s) := by
  obtain ⟨hf, hm⟩ := (gatesOpen_iff s).1 h
  unfold runCycle
  rw [if_pos hf]
  match hr : s.runMode with
  | .paused => exact absurd hr hm
  | .running =>
    have : s.endCycle = id := by funext u; simp [endCycle, hr]
    simp only [this]
    cases cycleBody s <;> rfl
  | .singleStepPending =>
    have : s.endCycle = (·.setRunMode .paused) := by funext u; simp [endCycle, hr]
    simp only [this]

/-- Everything one cycle can be (40_cycle.md R129): skipped, a fetch fault, a key-wait service, or the execution of
the fetched word. -/
theorem runCycle_cases (s : State) :
    (s.gatesOpen = false ∧ runCycle s = .next s) ∨
    (s.gatesOpen = true ∧ s.fetchWord = none ∧ runCycle s = .next (s.endCycle (s.raise .addressOutOfRange))) ∨
    (∃ w, s.gatesOpen = true ∧ s.fetchWord = some w ∧ s.waiting = true ∧
      runCycle s = .next (s.endCycle (s.setOpcode w).keyWaitService)) ∨
    (∃ w, s.gatesOpen = true ∧ s.fetchWord = some w ∧ s.waiting = false ∧
      runCycle s = mapNext s.endCycle (mapNext tickUnlessFaulted (executeWord w (s.setOpcode w)))) := by
  cases hg : s.gatesOpen with
  | false => exact .inl ⟨rfl, runCycle_of_gate hg⟩
  | true =>
    rw [runCycle_of_open hg]
    cases hw : s.fetchWord with
    | none => exact .inr (.inl ⟨rfl, rfl, by simp [cycleBody, hw]⟩)
    | some w =>
      cases ht : s.waiting with
      | true => exact .inr (.inr (.inl ⟨w, rfl, rfl, rfl, by simp [cycleBody, hw, ht]⟩))
      | false => exact .inr (.inr (.inr ⟨w, rfl, rfl, rfl, by simp [cycleBody, hw, ht]⟩))

/-- Every step, with the state after it: skipped, a fetch fault, a key-wait service without and with a key, an
instruction, an unknown opcode, an instruction that raises. -/
theorem step_cases (s : State) :
    (s.gatesOpen = false ∧ step s = .next s) ∨
    (s.gatesOpen = true ∧ s.fetchWord = none ∧ step s = .next (s.endCycle (s.raise .addressOutOfRange))) ∨
    (∃ w, s.gatesOpen = true ∧ s.fetchWord = some w ∧ s.waiting = true ∧ (∀ k, s.getKey k = false) ∧
      step s = .next (s.endCycle (s.setOpcode w))) ∨
    (∃ w k, s.gatesOpen = true ∧ s.fetchWord = some w ∧ s.waiting = true ∧ s.getKey k = true ∧
      ((step s = .next (s.endCycle ((s.setOpcode w).resolveKeyWait k)) ∧ ∀ j, s.getKey j = true → j = k) ∨
       (step s = .next (s.endCycle ((s.setOpcode w).nextDraw.resolveKeyWait k)) ∧
        ∃ j, j ≠ k ∧ s.getKey j = true))) ∨
    (∃ w i u, s.executingWord = some w ∧ decodeWord w = .ok i ∧ faultOf (s.setOpcode w) i = .none ∧
      exec i (s.setOpcode w) = .next u ∧ Completes i (s.setOpcode w) u ∧ step s = .next (s.endCycle u.timerTick)) ∨
    (∃ w, s.executingWord = some w ∧ decodeWord w = .error (.unknownOpcode w) ∧
      step s = .next (s.endCycle (((s.setOpcode w).pulse (.unknownOpcode w)).advance 2).timerTick)) ∨
    (∃ w i, s.executingWord = some w ∧ decodeWord w = .ok i ∧ faultOf (s.setOpcode w) i ≠ .none ∧
      step s = .next (s.endCycle ((s.setOpcode w).raise (faultOf (s.setOpcode w) i)))) := by
  have hstep : step s = runCycle s := rfl
  rw [hstep]
  rcases runCycle_cases s with ⟨hg, hr⟩ | ⟨hg, hf, hr⟩ | ⟨w, hg, hf, hw, hr⟩ | ⟨w, hg, hf, hw, hr⟩
  · exact .inl ⟨hg, hr⟩
  · exact .inr (.inl ⟨hg, hf, hr⟩)
  · by_cases hk : ∃ k, (s.setOpcode w).getKey k = true
    · obtain ⟨k, hp, h⟩ := keyWaitService_resolves hk
      refine .inr (.inr (.inr (.inl ⟨w, k, hg, hf, hw, hp, ?_⟩)))
      rw [hr]
      exact h.imp (fun h => ⟨by rw [h.1], h.2⟩) fun h => ⟨by rw [h.1], h.2⟩
    · have hn : ∀ k, (s.setOpcode w).getKey k = false := fun k => by
        simpa using fun h => hk ⟨k, h⟩
      rw [keyWaitService_idle hn] at hr
      exact .inr (.inr (.inl ⟨w, hg, hf, hw, hn, hr⟩))
  · have hx : s.executingWord = some w := executingWord_eq_some.2 ⟨hg, hw, hf⟩
    have h0 : s.fault = .none := ((gatesOpen_iff s).1 hg).1
    cases hd : decodeWord w with
    | error r =>
      obtain rfl := reject_eq hd
      refine .inr (.inr (.inr (.inr (.inr (.inl ⟨w, hx, hd, ?_⟩)))))
      rw [hr, executeWord, hd]
      simp [execUnknown, tickUnlessFaulted_of_none, h0]
    | ok i =>
      by_cases hno : faultOf (s.setOpcode w) i = .none
      · obtain ⟨u, hu, hc⟩ := exec_of_no_fault hno
        refine .inr (.inr (.inr (.inr (.inl ⟨w, i, u, hx, hd, hno, hu, hc, ?_⟩))))
        have hf0 : u.fault = .none := hc.fault.trans h0
        rw [hr, executeWord, hd]
        simp only [hu, mapNext_next, tickUnlessFaulted_of_none hf0]
      · refine .inr (.inr (.inr (.inr (.inr (.inr ⟨w, i, hx, hd, hno, ?_⟩)))))
        have hf0 : ((s.setOpcode w).raise (faultOf (s.setOpcode w) i)).fault ≠ .none := hno
        rw [hr, executeWord, hd]
        simp only [exec_of_fault hno, mapNext_next, tickUnlessFaulted_of_ne hf0]

/-- The placed word is what the very next step executes. -/
theorem fetchWord_withFetchWord (s : State) (nbits w : Nat) :
    (s.withFetchWord nbits w).executingWord = some (BitVec.ofNat 16 (w % 2 ^ nbits)) := by
  rw [executingWord_eq_some]
  set word : Word := BitVec.ofNat 16 (w % 2 ^ nbits) with hword
  have hpc : (s.withFetchWord nbits w).pc.toNat + 1 < Config.memSize := by
    simp only [withFetchWord]
    split
    · decide
    · omega
  have hmem : (s.withFetchWord nbits w).mem =
      s.mem.writeBytes (s.withFetchWord nbits w).pc.toNat [word.hiByte, word.loByte] := rfl
  refine ⟨(gatesOpen_iff _).2 ⟨rfl, ?_⟩, rfl, ?_⟩
  · simp only [withFetchWord]
    split <;> simp_all
  · rw [fetchWord_eq_some hpc, hmem, Memory.read_writeBytes, Memory.read_writeBytes,
      dif_pos ⟨le_rfl, by simp, by omega⟩, dif_pos ⟨by omega, by simp, hpc⟩]
    simp [wordOfBytes_hi_lo]

end Sys2Proof.Machine
end

