-- ==== Sys2Proof/Laws/PerInstr.lean ====
section
/-! SUPPORT. Per-instruction family RowDigits: an instruction's word carries the fixed digits of its own row of
30_encoding.md R96, for every value of its operands, and its operands are in range. -/

namespace Sys2Proof.Laws.RowDigits

/-- The word of the instruction is covered by the instruction's row, and the instruction is well formed. -/
def Statement (i : Instr) : Prop := encode i &&& i.row.mask = i.row.pattern ∧ i.wellFormed = true

theorem and_nnn (m : Nibble) (a : Addr12) : formatNNN m a &&& 0xF000#16 = formatNNN m 0 := by
  have e : (0xF000#16) = formatNNN 0xF#4 0#12 := by decide
  rw [e, formatNNN_and]
  congr 1
  · ext i hi; interval_cases i <;> simp
  · simp

/-- For formats XKK, XY and XYN the mask acts on whole nibbles of the word. -/
theorem and_xkk (m : Nibble) (x : Reg) (kk : Byte) : formatXKK m x kk &&& 0xF000#16 = formatXKK m 0 0 := by
  have e := and_nnn m (regField x ++ kk)
  have e1 : formatXKK m x kk = formatNNN m (regField x ++ kk) := by
    simp only [formatXKK, formatNNN]; exact BitVec.append_assoc
  rw [e1, e]
  simp only [formatXKK, formatNNN]
  clear e e1
  revert m; decide

theorem and_xyn (m : Nibble) (x y : Reg) (n : Nibble) : formatXYN m x y n &&& 0xF000#16 = formatXYN m 0 0 0 := by
  have e1 : formatXYN m x y n = formatXKK m x (regField y ++ n) := by
    simp only [formatXYN, formatXKK]; exact BitVec.append_assoc
  rw [e1, and_xkk]
  clear e1
  revert m; decide

theorem and_xy (m : Nibble) (x y : Reg) (n : Nibble) : formatXYN m x y n &&& 0xF00F#16 = formatXYN m 0 0 n := by
  have e : (0xF00F#16) = formatXYN 0xF#4 0 0 0xF#4 := by decide
  rw [e]; simp only [formatXYN]
  rw [BitVec.and_append, BitVec.and_append, BitVec.and_append]
  have h : ∀ m : Nibble, m &&& 0xF#4 = m := by decide
  have h0 : ∀ x : Reg, regField x &&& regField 0 = regField 0 := by decide
  rw [h, h, h0, h0]

theorem and_xf (m : Nibble) (x : Reg) (kk : Byte) : formatXKK m x kk &&& 0xF0FF#16 = formatXKK m 0 kk := by
  have e : (0xF0FF#16) = formatXKK 0xF#4 0 0xFF#8 := by decide
  rw [e]; simp only [formatXKK]
  rw [BitVec.and_append, BitVec.and_append]
  have h : ∀ m : Nibble, m &&& 0xF#4 = m := by decide
  have h0 : ∀ x : Reg, regField x &&& regField 0 = regField 0 := by decide
  have h8 : kk &&& 0xFF#8 = kk := by revert kk; decide
  rw [h, h0, h8]

theorem addrOk_toNat (a : Addr12) : WellFormed.addrOk a.toNat = true := by simpa [WellFormed.addrOk] using a.isLt
theorem immOk_toNat (b : Byte) : WellFormed.immOk b.toNat = true := by simpa [WellFormed.immOk] using b.isLt
theorem rowsOk_toNat (n : Nibble) : WellFormed.rowsOk n.toNat = true := by simpa [WellFormed.rowsOk] using n.isLt
theorem regOk_val (x : Reg) : WellFormed.regOk x = true := by simp [WellFormed.regOk]

theorem cls : Statement .cls := ⟨by decide, rfl⟩
theorem ret : Statement .ret := ⟨by decide, rfl⟩
theorem jp (nnn : Addr12) : Statement (.jp nnn) := ⟨and_nnn _ nnn, addrOk_toNat nnn⟩
theorem call (nnn : Addr12) : Statement (.call nnn) := ⟨and_nnn _ nnn, addrOk_toNat nnn⟩
theorem seImm (x : Reg) (kk : Byte) : Statement (.seImm x kk) :=
  ⟨and_xkk _ x kk, by simp [Instr.wellFormed, regOk_val, immOk_toNat]⟩
theorem sneImm (x : Reg) (kk : Byte) : Statement (.sneImm x kk) :=
  ⟨and_xkk _ x kk, by simp [Instr.wellFormed, regOk_val, immOk_toNat]⟩
theorem seReg (x y : Reg) : Statement (.seReg x y) :=
  ⟨and_xy _ x y _, by simp [Instr.wellFormed, regOk_val]⟩
theorem ldImm (x : Reg) (kk : Byte) : Statement (.ldImm x kk) :=
  ⟨and_xkk _ x kk, by simp [Instr.wellFormed, regOk_val, immOk_toNat]⟩
theorem addImm (x : Reg) (kk : Byte) : Statement (.addImm x kk) :=
  ⟨and_xkk _ x kk, by simp [Instr.wellFormed, regOk_val, immOk_toNat]⟩
theorem ldReg (x y : Reg) : Statement (.ldReg x y) :=
  ⟨and_xy _ x y _, by simp [Instr.wellFormed, regOk_val]⟩
theorem orReg (x y : Reg) : Statement (.orReg x y) :=
  ⟨and_xy _ x y _, by simp [Instr.wellFormed, regOk_val]⟩
theorem andReg (x y : Reg) : Statement (.andReg x y) :=
  ⟨and_xy _ x y _, by simp [Instr.wellFormed, regOk_val]⟩
theorem xorReg (x y : Reg) : Statement (.xorReg x y) :=
  ⟨and_xy _ x y _, by simp [Instr.wellFormed, regOk_val]⟩
theorem addReg (x y : Reg) : Statement (.addReg x y) :=
  ⟨and_xy _ x y _, by simp [Instr.wellFormed, regOk_val]⟩
theorem sub (x y : Reg) : Statement (.sub x y) :=
  ⟨and_xy _ x y _, by simp [Instr.wellFormed, regOk_val]⟩
theorem shr (x y : Reg) : Statement (.shr x y) :=
  ⟨and_xy _ x y _, by simp [Instr.wellFormed, regOk_val]⟩
theorem subn (x y : Reg) : Statement (.subn x y) :=
  ⟨and_xy _ x y _, by simp [Instr.wellFormed, regOk_val]⟩
theorem shl (x y : Reg) : Statement (.shl x y) :=
  ⟨and_xy _ x y _, by simp [Instr.wellFormed, regOk_val]⟩
theorem sneReg (x y : Reg) : Statement (.sneReg x y) :=
  ⟨and_xy _ x y _, by simp [Instr.wellFormed, regOk_val]⟩
theorem ldI (nnn : Addr12) : Statement (.ldI nnn) := ⟨and_nnn _ nnn, addrOk_toNat nnn⟩
theorem jpV0 (nnn : Addr12) : Statement (.jpV0 nnn) := ⟨and_nnn _ nnn, addrOk_toNat nnn⟩
theorem rnd (x : Reg) (kk : Byte) : Statement (.rnd x kk) :=
  ⟨and_xkk _ x kk, by simp [Instr.wellFormed, regOk_val, immOk_toNat]⟩
theorem drw (x y : Reg) (n : Nibble) : Statement (.drw x y n) :=
  ⟨and_xyn _ x y n, by simp [Instr.wellFormed, regOk_val, rowsOk_toNat]⟩
theorem skp (x : Reg) : Statement (.skp x) := ⟨and_xf _ x _, regOk_val x⟩
theorem sknp (x : Reg) : Statement (.sknp x) := ⟨and_xf _ x _, regOk_val x⟩
theorem ldVxDt (x : Reg) : Statement (.ldVxDt x) := ⟨and_xf _ x _, regOk_val x⟩
theorem ldVxK (x : Reg) : Statement (.ldVxK x) := ⟨and_xf _ x _, regOk_val x⟩
theorem ldDtVx (x : Reg) : Statement (.ldDtVx x) := ⟨and_xf _ x _, regOk_val x⟩
theorem ldStVx (x : Reg) : Statement (.ldStVx x) := ⟨and_xf _ x _, regOk_val x⟩
theorem addI (x : Reg) : Statement (.addI x) := ⟨and_xf _ x _, regOk_val x⟩
theorem ldF (x : Reg) : Statement (.ldF x) := ⟨and_xf _ x _, regOk_val x⟩
theorem ldB (x : Reg) : Statement (.ldB x) := ⟨and_xf _ x _, regOk_val x⟩
theorem ldMemVx (x : Reg) : Statement (.ldMemVx x) := ⟨and_xf _ x _, regOk_val x⟩
theorem ldVxMem (x : Reg) : Statement (.ldVxMem x) := ⟨and_xf _ x _, regOk_val x⟩

end Sys2Proof.Laws.RowDigits
end

