-- ==== Sys2Proof/Tests/Slice0.lean ====
section
/-! SUPPORT. Tests on single steps, with the expected values of 95_test_vectors.md (its numbers S, T and P are named),
and one witness for the hypotheses of each obligation. -/

namespace Sys2Proof.Tests

open Sys2Proof Sys2Proof.Machine

/-! ### Well-formedness (30_encoding.md R92): each check refuses a number outside its field -/

theorem test_wf_refuses_register_16 : WellFormed.regOk 15 = true ∧ WellFormed.regOk 16 = false := by decide
theorem test_wf_refuses_immediate_256 : WellFormed.immOk 255 = true ∧ WellFormed.immOk 256 = false := by decide
theorem test_wf_refuses_address_4096 : WellFormed.addrOk 4095 = true ∧ WellFormed.addrOk 4096 = false := by decide
theorem test_wf_refuses_sixteen_rows : WellFormed.rowsOk 15 = true ∧ WellFormed.rowsOk 16 = false := by decide

/-! ### Decoding: a word of every row, written from the pattern column of 30_encoding.md R96 -/

theorem test_decode_control :
    decodeWord 0b0000000011101110#16 = .ok .ret ∧ decodeWord 0b0001001000110100#16 = .ok (.jp 0x234) ∧
    decodeWord 0b0010111111111111#16 = .ok (.call 0xFFF) ∧
    decodeWord 0b0011101000010010#16 = .ok (.seImm 0xA 0x12) ∧
    decodeWord 0b0100111100000000#16 = .ok (.sneImm 0xF 0x00) ∧
    decodeWord 0b0101101010110000#16 = .ok (.seReg 0xA 0xB) ∧
    decodeWord 0b1001101010110000#16 = .ok (.sneReg 0xA 0xB) ∧
    decodeWord 0b1011000100100011#16 = .ok (.jpV0 0x123) := by decide

theorem test_decode_immediate_and_random :
    decodeWord 0b0110110010000000#16 = .ok (.ldImm 0xC 0x80) ∧
    decodeWord 0b0111110111111111#16 = .ok (.addImm 0xD 0xFF) ∧
    decodeWord 0b1100011111110000#16 = .ok (.rnd 7 0xF0) := by decide

theorem test_decode_eight :
    decodeWord 0b1000101010110000#16 = .ok (.ldReg 0xA 0xB) ∧ decodeWord 0b1000101010110001#16 = .ok (.orReg 0xA 0xB) ∧
    decodeWord 0b1000101010110010#16 = .ok (.andReg 0xA 0xB) ∧
    decodeWord 0b1000101010110011#16 = .ok (.xorReg 0xA 0xB) ∧
    decodeWord 0b1000101010110100#16 = .ok (.addReg 0xA 0xB) ∧ decodeWord 0b1000101010110101#16 = .ok (.sub 0xA 0xB) ∧
    decodeWord 0b1000101010110110#16 = .ok (.shr 0xA 0xB) ∧ decodeWord 0b1000101010110111#16 = .ok (.subn 0xA 0xB) ∧
    decodeWord 0b1000101010111110#16 = .ok (.shl 0xA 0xB) := by decide

theorem test_decode_index_and_memory :
    decodeWord 0b1010000100100011#16 = .ok (.ldI 0x123) ∧ decodeWord 0b1111010100011110#16 = .ok (.addI 5) ∧
    decodeWord 0b1111010100101001#16 = .ok (.ldF 5) ∧ decodeWord 0b1111010100110011#16 = .ok (.ldB 5) ∧
    decodeWord 0b1111010101010101#16 = .ok (.ldMemVx 5) ∧ decodeWord 0b1111010101100101#16 = .ok (.ldVxMem 5) := by decide

theorem test_decode_display :
    decodeWord 0b0000000011100000#16 = .ok .cls ∧ decodeWord 0b1101000100101111#16 = .ok (.drw 1 2 15) := by decide

theorem test_decode_keypad_and_timers :
    decodeWord 0b1110010110011110#16 = .ok (.skp 5) ∧ decodeWord 0b1110010110100001#16 = .ok (.sknp 5) ∧
    decodeWord 0b1111010100000111#16 = .ok (.ldVxDt 5) ∧ decodeWord 0b1111010100001010#16 = .ok (.ldVxK 5) ∧
    decodeWord 0b1111010100010101#16 = .ok (.ldDtVx 5) ∧ decodeWord 0b1111010100011000#16 = .ok (.ldStVx 5) := by decide

/-- The unknown words of 95_test_vectors.md part 4, first half. -/
theorem test_decode_unknown_low :
    ([0x0000#16, 0x00E1#16, 0x00FE#16, 0x01E0#16, 0x0230#16, 0x0FFF#16, 0x5AB1#16, 0x5ABF#16, 0x8AB8#16, 0x8AB9#16]).all
      (fun w => decide (decodeWord w = .error (.unknownOpcode w))) = true := by decide

/-- The unknown words of 95_test_vectors.md part 4, second half. -/
theorem test_decode_unknown_high :
    ([0x8ABD#16, 0x8ABF#16, 0x9AB5#16, 0xE59F#16, 0xE5A0#16, 0xE500#16, 0xF500#16, 0xF575#16, 0xF585#16, 0xF51F#16]).all
      (fun w => decide (decodeWord w = .error (.unknownOpcode w))) = true := by decide

theorem test_decode_needs_two_bytes : decodeBytes [0x12#8] = .error .truncated := by decide

/-! ### Helpers -/

/-- The state after reset with a word at 0x200. -/
def placed (w : Word) : State := State.reset.load [w.hiByte, w.loByte]

/-- A part of the state after one step. -/
def after {α : Type} (s : State) (f : State → α) : Option α :=
  match step s with
  | .next t => some (f t)
  | .fault _ => none
  | .refused _ => none

/-- A part of the state after two steps. -/
def after2 {α : Type} (s : State) (f : State → α) : Option α := (after s id).bind fun t => after t f

/-- Two registers, VF and `PC`. -/
def regs (x y : Reg) (t : State) : Byte × Byte × Byte × Word := (t.getV x, t.getV y, t.getV vf, t.pc)

/-! ### Control transfer -/

theorem test_jp_t1 : after (placed 0x1ABC) (fun t => (t.pc, t.fault)) = some (0x0ABC, .none) := by decide
theorem test_jp_to_last_byte_t2 :
    after2 (placed 0x1FFF) (fun t => (t.pc, t.fault, t.opcode)) = some (0x0FFF, .addressOutOfRange, 0x1FFF) := by decide
theorem test_call_t4 :
    after ((placed 0x2ABC).setSp 15) (fun t => (t.pc, t.sp, t.stack[15])) = some (0x0ABC, 16, 0x0200) := by decide
theorem test_call_full_t5 :
    after (((placed 0x2ABC).setSp 16).setDt 3) (fun t => (t.pc, t.sp, t.fault, t.dt)) =
      some (0x0200, 16, .stackOverflow, 3) := by decide
theorem test_ret_t7 :
    after ((((placed 0x00EE).setSlot 0 0x222).setSlot 1 0x456).setSp 2) (fun t => (t.pc, t.sp, t.stack[1])) =
      some (0x0458, 1, 0x0456) := by decide
theorem test_ret_empty_t6 :
    after (placed 0x00EE) (fun t => (t.pc, t.sp, t.fault)) = some (0x0200, 0, .stackUnderflow) := by decide
theorem test_se_imm_t8_t9 :
    after ((placed 0x332A).setV 3 0x2A) (·.pc) = some 0x204 ∧ after ((placed 0x332B).setV 3 0x2A) (·.pc) = some 0x202 := by
  decide
theorem test_sne_imm_t11_t12 :
    after ((placed 0x432A).setV 3 0x2A) (·.pc) = some 0x202 ∧ after ((placed 0x432B).setV 3 0x2A) (·.pc) = some 0x204 := by
  decide
theorem test_se_reg_t13_t14 :
    after (((placed 0x5120).setV 1 7).setV 2 7) (·.pc) = some 0x204 ∧
    after (((placed 0x5120).setV 1 7).setV 2 8) (·.pc) = some 0x202 := by decide
theorem test_sne_reg_t17_t18 :
    after (((placed 0x9120).setV 1 7).setV 2 8) (·.pc) = some 0x204 ∧
    after ((placed 0x9AA0).setV 0xA 9) (·.pc) = some 0x202 := by decide
theorem test_jp_v0_t19 : after ((placed 0xB300).setV 0 4) (·.pc) = some 0x304 := by decide
theorem test_jp_v0_t20 :
    after2 ((placed 0xBFFF).setV 0 0xFF) (fun t => (t.pc, t.fault)) = some (0x10FE, .addressOutOfRange) := by decide

/-! ### Load, arithmetic, logic, shift, random -/

theorem test_ld_imm_t30 : after (placed 0x6A7F) (regs 0xA 0) = some (0x7F, 0, 0, 0x202) := by decide
theorem test_add_imm_t31_t32 :
    after (((placed 0x7001).setV 0 0xFF).setV vf 0x55) (regs 0 0) = some (0, 0, 0x55, 0x202) ∧
    after ((placed 0x7F01).setV vf 0xFF) (regs 0 0) = some (0, 0, 0, 0x202) := by decide
theorem test_ld_reg_t34 : after ((placed 0x8EF0).setV vf 1) (regs 0xE 0) = some (1, 0, 1, 0x202) := by decide
theorem test_or_t35 :
    after ((((placed 0x8121).setV 1 0xF0).setV 2 0x0F).setV vf 0x77) (regs 1 2) = some (0xFF, 0x0F, 0x77, 0x202) := by
  decide
theorem test_and_t36 :
    after ((((placed 0x8122).setV 1 0xF0).setV 2 0x3C).setV vf 0x77) (regs 1 2) = some (0x30, 0x3C, 0x77, 0x202) := by
  decide
theorem test_xor_t37 :
    after ((((placed 0x8123).setV 1 0xF0).setV 2 0x3C).setV vf 0x77) (regs 1 2) = some (0xCC, 0x3C, 0x77, 0x202) := by
  decide
theorem test_add_s4_t40 :
    after (((placed 0x8124).setV 1 200).setV 2 100) (regs 1 2) = some (44, 100, 1, 0x202) ∧
    after (((placed 0x8124).setV 1 255).setV vf 1) (regs 1 2) = some (255, 0, 0, 0x202) := by decide
theorem test_add_with_vf_t42_t43 :
    after (((placed 0x8F14).setV vf 200).setV 1 100) (regs 1 2) = some (100, 0, 44, 0x202) ∧
    after (((placed 0x81F4).setV 1 250).setV vf 10) (regs 1 2) = some (4, 0, 1, 0x202) := by decide
theorem test_sub_t46_t47 :
    after ((((placed 0x8125).setV 1 5).setV 2 5).setV vf 1) (regs 1 2) = some (0, 5, 0, 0x202) ∧
    after (((placed 0x8125).setV 2 1).setV vf 1) (regs 1 2) = some (0xFF, 1, 0, 0x202) := by decide
theorem test_sub_with_vf_t49_t50 :
    after (((placed 0x8F15).setV vf 9).setV 1 3) (regs 1 2) = some (3, 0, 0xFE, 0x202) ∧
    after (((placed 0x80F5).setV 0 9).setV vf 3) (regs 0 2) = some (8, 0, 1, 0x202) := by decide
theorem test_shr_t53 :
    after (((placed 0x8126).setV 1 0xFF).setV 2 0xAA) (regs 1 2) = some (0x7F, 0xAA, 1, 0x202) := by decide
theorem test_shr_vf_t56 : after ((placed 0x8F06).setV vf 0xFF) (regs 1 2) = some (0, 0, 0, 0x202) := by decide
theorem test_subn_t57_t58 :
    after (((placed 0x8127).setV 1 3).setV 2 10) (regs 1 2) = some (7, 10, 1, 0x202) ∧
    after ((((placed 0x8127).setV 1 5).setV 2 5).setV vf 1) (regs 1 2) = some (0, 5, 0, 0x202) := by decide
theorem test_subn_with_vf_t61_t62 :
    after (((placed 0x8F17).setV 1 9).setV vf 3) (regs 1 2) = some (9, 0, 8, 0x202) ∧
    after (((placed 0x80F7).setV vf 9).setV 0 3) (regs 0 2) = some (0xFE, 0, 1, 0x202) := by decide
theorem test_shl_t64_t65 :
    after (((placed 0x812E).setV 1 0x40).setV vf 1) (regs 1 2) = some (0x80, 0, 0, 0x202) ∧
    after ((placed 0x810E).setV 1 0x81) (regs 1 2) = some (2, 0, 1, 0x202) := by decide
theorem test_shl_vf_t66_t67 :
    after ((placed 0x8F0E).setV vf 0xFF) (regs 1 2) = some (0, 0, 2, 0x202) ∧
    after ((placed 0x8F0E).setV vf 0x7F) (regs 1 2) = some (0, 0, 0, 0x202) := by decide
/-- T68 needs no value of the draw: the mask 0 clears every bit of it. -/
theorem test_rnd_mask_zero_t68 : after ((placed 0xC300).setV 3 0x55) (fun t => (t.pc, t.draws)) = some (0x202, 2) := by
  decide

/-! ### Index register and memory -/

theorem test_ld_i_t80 : after (placed 0xAFFF) (fun t => (t.i, t.pc)) = some (0x0FFF, 0x202) := by decide
theorem test_add_i_t82_t83 :
    after (((placed 0xF21E).setI 0x0FFF).setV 2 1) (fun t => (t.i, t.getV vf)) = some (0x1000, 0) ∧
    after (((placed 0xF21E).setI 0xFFFF).setV 2 2) (fun t => (t.i, t.fault)) = some (0x0001, .none) := by decide
theorem test_ld_f_t84_t85 :
    after ((placed 0xF129).setV 1 0x0F) (·.i) = some 0x004B ∧ after ((placed 0xF129).setV 1 0x10) (·.i) = some 0x0050 := by
  decide
theorem test_ld_b_s5 :
    after (((placed 0xF133).setV 1 234).setI 0x300)
      (fun t => (t.mem.read 0x300, t.mem.read 0x301, t.mem.read 0x302, t.i)) = some (2, 3, 4, 0x300) := by decide
theorem test_ld_b_dropped_t91 :
    after (((placed 0xF133).setV 1 255).setI 0xFFE)
      (fun t => (t.mem.read 0xFFE, t.mem.read 0xFFF, t.mem.length, t.pc, t.fault)) = some (2, 5, 4, 0x202, .none) := by
  decide
theorem test_ld_mem_vx_t94 :
    after (((((placed 0xF355).setI 0xFFE).setV 0 0x11).setV 1 0x22).setV 2 0x33)
      (fun t => (t.mem.read 0xFFE, t.mem.read 0xFFF, t.mem.length, t.i, t.fault)) =
      some (0x11, 0x22, 4, 0xFFE, .none) := by decide
theorem test_ld_mem_vx_over_itself_t96 :
    after ((((placed 0xF155).setI 0x200).setV 0 0x12).setV 1 0x34)
      (fun t => (t.mem.read 0x200, t.mem.read 0x201, t.opcode, t.pc)) = some (0x12, 0x34, 0xF155, 0x202) := by decide
theorem test_ld_vx_mem_t97 :
    after ((((placed 0xF265).setMem (((placed 0xF265).mem).writeBytes 0x300 [0x0A, 0x0B, 0x0C])).setI 0x300).setV 3 9)
      (fun t => (t.getV 0, t.getV 1, t.getV 2, t.getV 3, t.i)) = some (0x0A, 0x0B, 0x0C, 9, 0x300) := by decide
theorem test_ld_vx_mem_out_of_range_t99 :
    after (((placed 0xFF65).setI 0xFF1).setV 0 0x99) (fun t => (t.getV 0, t.fault, t.pc)) =
      some (0x99, .addressOutOfRange, 0x200) := by decide

/-! ### Display -/

/-- A word at 0x200, sprite bytes at 0x300 and `I` there. -/
def sprite (w : Word) (rows : List Byte) : State :=
  ((placed w).setMem ((placed w).mem.writeBytes 0x300 rows)).setI 0x300

theorem test_cls_t110 :
    after ((((placed 0x00E0).setDisp ((Display.clear.toggle 0 0).toggle 31 63)).setV vf 1).setRedraw false)
      (fun t => (t.disp, t.redraw, t.getV vf)) = some (Display.clear, true, 1) := by decide
theorem test_drw_wraps_origin_t112 :
    after (((sprite 0xD011 [0x80]).setV 0 70).setV 1 33) (fun t => (t.disp, t.getV vf, t.redraw)) =
      some (Display.clear.toggle 1 6, 0, true) := by decide
theorem test_drw_collision_t113 :
    after ((((sprite 0xD011 [0xC0]).setV 0 10).setV 1 5).setDisp (Display.clear.toggle 5 10))
      (fun t => (t.disp, t.getV vf)) = some (Display.clear.toggle 5 11, 1) := by decide

/-! ### Keypad and timers -/

theorem test_skp_t130_t133 :
    after (((placed 0xE39E).setV 3 7).setKey 7 true) (·.pc) = some 0x204 ∧
    after (((placed 0xE39E).setV 3 16).setKey 0 true) (·.pc) = some 0x202 := by decide
theorem test_sknp_t134_t136 :
    after (((placed 0xE3A1).setV 3 7).setKey 7 true) (·.pc) = some 0x202 ∧
    after (((placed 0xE3A1).setV 3 0x17).setKey 7 true) (·.pc) = some 0x204 := by decide
theorem test_ld_vx_k_t137 :
    after (((placed 0xFF0A).setV vf 0x33).setDt 2) (fun t => (t.waiting, t.waitReg, t.pc, t.getV vf, t.dt)) =
      some (true, 0xF, 0x200, 0x33, 1) := by decide
theorem test_ld_vx_k_held_t140 :
    after2 ((placed 0xF50A).setKey 0xC true) (fun t => (t.waiting, t.getV 5, t.pc)) = some (false, 0x0C, 0x202) := by
  decide
theorem test_ld_vx_dt_t141 : after ((placed 0xF407).setDt 3) (fun t => (t.getV 4, t.dt)) = some (3, 2) := by decide
theorem test_ld_dt_vx_t144_t145 :
    after ((placed 0xF015).setV 0 5) (·.dt) = some 4 ∧ after ((placed 0xF115).setDt 9) (·.dt) = some 0 := by decide
theorem test_ld_st_vx_t147_t148 :
    after ((placed 0xF118).setV 1 1) (fun t => (t.st, t.events)) = some (0, [.tone]) ∧
    after ((placed 0xF118).setSt 5) (fun t => (t.st, t.events)) = some (0, []) := by decide

/-! ### The cycle and the host -/

theorem test_unknown_opcode_t150 :
    after ((State.reset.setDt 3).setSt 1) (fun t => (t.pc, t.dt, t.st, t.events)) =
      some (0x202, 2, 0, [.tone, .unknownOpcode 0x0000]) := by decide
theorem test_key_wait_idle_t138 :
    after (((placed 0xFF0A).setWaiting true).setDt 1) (fun t => (t.waiting, t.dt, t.opcode, t.pc)) =
      some (true, 1, 0xFF0A, 0x200) := by decide
theorem test_paused_cycle_is_skipped_t160 :
    after (placed 0x6001).pause (fun t => (t.runMode, t.pc, t.opcode)) = some (.paused, 0x200, 0) := by decide
theorem test_single_step_t161 :
    after (placed 0x6001).pause.singleStep (fun t => (t.getV 0, t.pc, t.runMode)) = some (1, 0x202, .paused) := by decide
theorem test_step_survives_pause_t164 :
    (placed 0x6001).pause.singleStep.pause.runMode = .singleStepPending := by decide
theorem test_step_while_running_ignored_t166 : (placed 0x6001).singleStep.runMode = .running := by decide
theorem test_single_step_onto_fault_t172 :
    after (placed 0x00EE).pause.singleStep (fun t => (t.fault, t.runMode, t.pc)) =
      some (.stackUnderflow, .paused, 0x200) := by decide
theorem test_faulted_cycle_keeps_the_step_t173 :
    after ((placed 0x00EE).raise .stackUnderflow).pause.singleStep (·.runMode) = some .singleStepPending := by decide
theorem test_key_down_up_t168 :
    ((State.reset.keyDown 4).keyUp 4).getKey 4 = false ∧ ((State.reset.keyDown 4).keyUp 4).lastKey = 4 := by decide
theorem test_load_truncates_t169 :
    ((State.reset.setPc 0x300).load [0xAB, 0xCD]).mem = [(0x200, 0xAB), (0x201, 0xCD)] ∧
    (Memory.writeBytes [] 0xFFF [0xAB, 0xCD]) = [(0xFFF, 0xAB)] := by decide
theorem test_reset_t171 :
    let t := ((((((placed 0x00EE).raise .addressOutOfRange).setSt 9).pause.keyDown 3).setWaiting true).hostReset)
    t.fault = .none ∧ t.waiting = false ∧ t.st = 0 ∧ t.runMode = .running ∧ t.getKey 3 = false ∧ t.pc = 0x200 ∧
    t.mem = [] ∧ t.events = [] := by decide
theorem test_placed_word_runs_first :
    after (State.reset.withFetchWord 16 0x6A7F) (regs 0xA 0) = some (0x7F, 0, 0, 0x202) := by decide
theorem test_decode_table_word : decodeTableWord 16 0xD12F = some (.drw 1 2 15) ∧ decodeTableWord 16 0xF575 = none := by
  decide

/-! ### Witnesses: for each obligation with hypotheses, states and operands that meet all of them together -/

/-- An awaiting state with the given keys pressed. -/
def awaiting (keys : List Key) : State := keys.foldl (fun s k => s.setKey k true) ((placed 0xF50A).setWaiting true)

theorem witness_EncodeOfDecodeIsIdentity : decodeWord 0xD12F#16 = .ok (.drw 1 2 15) := by decide

theorem witness_DecodingIsExactMatchOfTheTable :
    ⟨"SHL_Vx", 0xF00F, 0x800E⟩ ∈ opcodeTable ∧ (Row.mk "SHL_Vx" 0xF00F 0x800E).covers 0x8ABE = true ∧
    decodeWord 0x8ABE#16 = .ok (.shl 0xA 0xB) ∧ decodeWord 0x8ABD#16 = .error (.unknownOpcode 0x8ABD) := by decide

/-- Both clauses: an instruction and an unknown opcode. -/
theorem witness_StepPerformsTheDecodedInstruction :
    (placed 0x6A7F).fault = .none ∧ (placed 0x6A7F).runMode ≠ .paused ∧ (placed 0x6A7F).waiting = false ∧
    (placed 0x6A7F).fetchWord = some 0x6A7F ∧ decodeWord 0x6A7F#16 = .ok (.ldImm 0xA 0x7F) ∧
    State.reset.fault = .none ∧ State.reset.runMode ≠ .paused ∧ State.reset.waiting = false ∧
    State.reset.fetchWord = some 0x0000 ∧ decodeWord 0x0000#16 = .error (.unknownOpcode 0) := by decide

/-- The two clauses at the last fetchable address and the one after it; an odd address between. -/
theorem witness_FetchIsBigEndianAtAnyAddress :
    ((placed 0x6A7F).setPc 0xFFE).pc.toNat + 1 < 4096 ∧ 4096 ≤ ((placed 0x6A7F).setPc 0xFFF).pc.toNat + 1 ∧
    ((placed 0x6A7F).setPc 0x1FF).fetchWord = some 0x006A ∧ ((placed 0x6A7F).setPc 0x201).fetchWord = some 0x7F00 ∧
    ((placed 0x6A7F).setPc 0xFFE).fetchWord = some 0 ∧ ((placed 0x6A7F).setPc 0xFFF).fetchWord = none := by decide

theorem witness_LatchedFaultHaltsTheCore : ((placed 0x6A7F).raise .stackOverflow).fault ≠ .none := by decide

/-- The three clauses. -/
theorem witness_RunModeGatesTheCycle :
    (placed 0x6A7F).pause.fault = .none ∧ (placed 0x6A7F).pause.runMode = .paused ∧
    (placed 0x6A7F).fault = .none ∧ (placed 0x6A7F).runMode = .running ∧
    (placed 0x6A7F).pause.singleStep.fault = .none ∧ (placed 0x6A7F).pause.singleStep.runMode = .singleStepPending := by
  decide

theorem witness_SteppedCycleIsARunningCycle : (placed 0x6A7F).fault = .none ∧ (placed 0x6A7F).runMode = .running := by
  decide

theorem witness_UnfetchablePcLatchesAddressOutOfRange :
    (State.reset.setPc 0xFFF).fault = .none ∧ (State.reset.setPc 0xFFF).runMode ≠ .paused ∧
    0xFFF ≤ (State.reset.setPc 0xFFF).pc.toNat := by decide

theorem witness_KeyWaitWithoutKeyOnlyRefetches :
    (awaiting []).fault = .none ∧ (awaiting []).runMode ≠ .paused ∧ (awaiting []).waiting = true ∧
    (awaiting []).fetchWord = some 0xF50A ∧ ∀ k, (awaiting []).getKey k = false := by decide

/-- Exactly one key, and several. -/
theorem witness_KeyWaitStoresAPressedKey :
    (awaiting [9]).fault = .none ∧ (awaiting [9]).runMode ≠ .paused ∧ (awaiting [9]).waiting = true ∧
    (awaiting [9]).fetchWord = some 0xF50A ∧ (∃ k, (awaiting [9]).getKey k = true) ∧
    (∀ j, (awaiting [9]).getKey j = true ↔ j = 9) ∧
    (awaiting [2, 9]).fault = .none ∧ (awaiting [2, 9]).runMode ≠ .paused ∧ (awaiting [2, 9]).waiting = true ∧
    (awaiting [2, 9]).fetchWord = some 0xF50A ∧ (awaiting [2, 9]).getKey 2 = true ∧ (awaiting [2, 9]).getKey 9 = true := by
  decide

theorem witness_UnknownOpcodeIsAReportedNoOp :
    (placed 0x5121).fault = .none ∧ (placed 0x5121).runMode ≠ .paused ∧ (placed 0x5121).waiting = false ∧
    (placed 0x5121).fetchWord = some 0x5121 ∧ ∀ i, decodeWord 0x5121#16 ≠ .ok i := by
  refine ⟨by decide, by decide, by decide, by decide, fun i h => ?_⟩
  have hd : decodeWord 0x5121#16 = .error (.unknownOpcode 0x5121) := by decide
  rw [hd] at h
  cases h

theorem witness_TimersTickAfterTheInstruction :
    ((placed 0xF118).setV 1 1).executingWord = some 0xF118 ∧ decodeWord 0xF118#16 = .ok (.ldStVx 1) ∧
    ∃ u, exec (.ldStVx 1) (((placed 0xF118).setV 1 1).setOpcode 0xF118) = .next u ∧ u.fault = .none ∧ u.st = 1 :=
  ⟨by decide, by decide, _, rfl, rfl, rfl⟩

/-- A state inside a subroutine, with memory listed, in a cycle that stores. -/
def inSubroutine : State := ((((placed 0xF133).setSlot 0 0x0FFE).setSp 1).setI 0x300).setV 1 234

theorem inSubroutine_inv : inSubroutine.Inv :=
  ⟨by decide, fun k hk => by
    have h0 : k = 0 := by
      have : k.val < 1 := hk
      exact Fin.ext (by simp only [Fin.val_zero]; omega)
    subst h0
    decide⟩

theorem witness_StepKeepsTheInvariant : ∃ t, inSubroutine.Inv ∧ step inSubroutine = .next t ∧ t.mem ≠ inSubroutine.mem := by
  have h : after inSubroutine (fun t => decide (t.mem ≠ inSubroutine.mem)) = some true := by decide
  obtain ⟨t, ht, -⟩ : ∃ t, step inSubroutine = .next t ∧ True := ⟨_, rfl, trivial⟩
  refine ⟨t, inSubroutine_inv, ht, ?_⟩
  simpa [after, ht] using h

theorem witness_HostTransactionsKeepTheInvariant : inSubroutine.Inv := inSubroutine_inv

/-- Display changes by 00E0 and by Dxyn. -/
theorem witness_OnlyClsAndDrwChangeTheDisplay :
    after ((placed 0x00E0).setDisp (Display.clear.toggle 5 5)) (fun t => decide (t.disp ≠ Display.clear.toggle 5 5)) =
      some true ∧
    after (sprite 0xD011 [0x80]) (fun t => decide (t.disp ≠ (sprite 0xD011 [0x80]).disp)) = some true := by decide

/-- Memory changes by Fx33 and Fx55, `I` by Annn, Fx1E and Fx29. -/
theorem witness_OnlyTheirWritersChangeMemoryAndI :
    after (((placed 0xF133).setI 0x300).setV 1 234) (fun t => decide (t.mem.read 0x300 ≠ 0)) = some true ∧
    after (((placed 0xF055).setI 0x300).setV 0 7) (fun t => decide (t.mem.read 0x300 ≠ 0)) = some true ∧
    after (placed 0xA123) (fun t => decide (t.i ≠ 0)) = some true ∧
    after ((placed 0xF11E).setV 1 1) (fun t => decide (t.i ≠ 0)) = some true ∧
    after ((placed 0xF129).setV 1 1) (fun t => decide (t.i ≠ 0)) = some true := by decide

theorem witness_OnlyCallAndRetTouchTheStack :
    after (placed 0x2ABC) (fun t => decide (t.stack ≠ State.reset.stack ∧ t.sp ≠ 0)) = some true ∧
    after ((placed 0x00EE).setSp 1) (fun t => decide (t.sp ≠ 1)) = some true := by decide

theorem witness_TimersRiseOnlyByTheirLoads :
    after ((placed 0xF015).setV 0 5) (fun t => decide (0 < t.dt.toNat)) = some true ∧
    after ((placed 0xF018).setV 0 5) (fun t => decide (0 < t.st.toNat)) = some true := by decide

/-- The four ways to a fault, each at its boundary, and the last values that raise none. -/
theorem witness_FaultsAreExactlyTheListedOnesAndPrecise :
    after ((placed 0x2ABC).setSp 16) (·.fault) = some .stackOverflow ∧
    after ((placed 0x2ABC).setSp 15) (·.fault) = some .none ∧
    after ((placed 0x00EE).setSp 0) (·.fault) = some .stackUnderflow ∧
    after ((placed 0x00EE).setSp 1) (·.fault) = some .none ∧
    after (State.reset.setPc 0xFFF) (·.fault) = some .addressOutOfRange ∧
    after (State.reset.setPc 0xFFE) (·.fault) = some .none ∧
    after ((placed 0xD012).setI 0xFFF) (·.fault) = some .addressOutOfRange ∧
    after ((placed 0xD011).setI 0xFFF) (·.fault) = some .none ∧
    after ((placed 0xD010).setI 0xFFFF) (·.fault) = some .none ∧
    after ((placed 0xF165).setI 0xFFF) (·.fault) = some .addressOutOfRange ∧
    after ((placed 0xF165).setI 0xFFE) (·.fault) = some .none := by decide

theorem witness_LastKeyAndRedrawAreNeverRead :
    ∃ t t', step (placed 0x00E0) = .next t ∧ step (((placed 0x00E0).setRedraw true).setLastKey 7) = .next t' :=
  ⟨_, _, rfl, rfl⟩

theorem witness_CallPushesItsOwnAddress :
    (State.reset.setSp 0).sp.val < 16 ∧ (State.reset.setSp 15).sp.val < 16 ∧ (State.reset.setSp 16).sp.val = 16 := by decide

theorem witness_RetContinuesAfterTheCall :
    (State.reset.setSp 1).sp.val = (0 : Fin 16).val + 1 ∧ (State.reset.setSp 16).sp.val = (15 : Fin 16).val + 1 ∧
    State.reset.sp.val = 0 := by decide

theorem witness_RetUndoesCall :
    ∃ t u, (placed 0x2ABC).sp.val < 16 ∧ exec (.call 0xABC) (placed 0x2ABC) = .next t ∧ u.stack = t.stack ∧ u.sp = t.sp ∧
      u ≠ t :=
  ⟨_, ((placed 0x2ABC).setSlot 0 0x200).setSp 1, by decide, rfl, rfl, rfl, fun h =>
    absurd (congrArg State.pc h) (by decide)⟩

/-- Equal, different, and x = y. -/
theorem witness_SkipsOnImmediateCompare :
    (State.reset.setV 3 0x2A).getV 3 = 0x2A ∧ (State.reset.setV 3 0x2A).getV 3 ≠ 0x2B := by decide

theorem witness_SkipsOnRegisterCompare :
    ((State.reset.setV 3 7).setV 4 7).getV 3 = ((State.reset.setV 3 7).setV 4 7).getV 4 ∧
    (State.reset.setV 3 7).getV 3 ≠ (State.reset.setV 3 7).getV 4 := by decide

/-- Key 15 pressed, key 15 not pressed, and the number 16 with key 0 pressed. -/
theorem witness_SkipsOnKeyState :
    (∃ k : Key, k.val = (((State.reset.setV 3 15).setKey 15 true).getV 3).toNat ∧
      ((State.reset.setV 3 15).setKey 15 true).getKey k = true) ∧
    (¬∃ k : Key, k.val = ((State.reset.setV 3 15).getV 3).toNat ∧ (State.reset.setV 3 15).getKey k = true) ∧
    ¬∃ k : Key, k.val = (((State.reset.setV 3 16).setKey 0 true).getV 3).toNat ∧
      ((State.reset.setV 3 16).setKey 0 true).getKey k = true := by decide

theorem witness_LoadsAndAddImmediate : (0 : Reg) ≠ 1 ∧ vf ≠ 1 := by decide
theorem witness_LogicIsBitwiseAndKeepsVF : (0 : Nat) < 8 ∧ (7 : Nat) < 8 ∧ vf ≠ 1 := by decide
theorem witness_AddSetsCarry : (1 : Reg) ≠ vf ∧ (2 : Reg) ≠ 1 ∧ (2 : Reg) ≠ vf := by decide
theorem witness_SubtractionsFlagStrictlyGreater : (1 : Reg) ≠ vf ∧ (2 : Reg) ≠ 1 ∧ (2 : Reg) ≠ vf := by decide
theorem witness_ShiftsPutTheLostBitInVF : (1 : Reg) ≠ vf ∧ (2 : Reg) ≠ 1 ∧ (2 : Reg) ≠ vf := by decide
theorem witness_RndIsAMaskedDraw : (7 : Nat) < 8 ∧ (0x00 : Byte) = 0 ∧ (0 : Reg) ≠ 3 := by decide
theorem witness_TimerMoves : (0 : Reg) ≠ 1 := by decide

/-- The three digits stored, the last digit dropped, everything dropped; an address below, above and beyond. -/
theorem witness_LdBStoresThreeDecimalDigits :
    (State.reset.setI 0xFFD).dataAddr 2 < 4096 ∧ (State.reset.setI 0xFFE).dataAddr 1 < 4096 ∧
    ¬(State.reset.setI 0xFFE).dataAddr 2 < 4096 ∧ ¬(State.reset.setI 0x1000).dataAddr 0 < 4096 ∧
    0xFFC < (State.reset.setI 0xFFD).dataAddr 0 ∧ (State.reset.setI 0x300).dataAddr 2 < 0x303 := by decide

theorem witness_LdMemVxStoresTheBlock :
    (3 : Reg) ≤ 3 ∧ (State.reset.setI 0xFFC).dataAddr (3 : Reg) < 4096 ∧ ¬(State.reset.setI 0xFFD).dataAddr (3 : Reg) < 4096 ∧
    (State.reset.setI 0x300).dataAddr (3 : Reg) < 0x304 ∧ 0x2FF < (State.reset.setI 0x300).dataAddr 0 := by decide

theorem witness_LdVxMemLoadsTheBlock :
    (State.reset.setI 0xFF0).i.toNat + (15 : Reg).val < 4096 ∧ 4096 ≤ (State.reset.setI 0xFF1).i.toNat + (15 : Reg).val ∧
    (0 : Reg) ≤ 3 ∧ (3 : Reg) < 4 := by decide

/-- No row at all, the last row in range; and a pixel in the sprite, one outside, with and without collision. -/
theorem witness_DrwXorsTheSpriteAndReportsCollision :
    ((0 : Nibble) = 0 ∨ (State.reset.setI 0xFFFF).i.toNat + (0 : Nibble).toNat - 1 < 4096) ∧
    ((1 : Nibble) = 0 ∨ (State.reset.setI 0xFFF).i.toNat + (1 : Nibble).toNat - 1 < 4096) ∧
    SpriteSets (sprite 0xD011 [0x80]) 0 1 1 0 0 ∧ ¬SpriteSets (sprite 0xD011 [0x80]) 0 1 1 1 0 := by
  refine ⟨by decide, by decide, ⟨0, 0, by decide, by decide, by decide, by decide, by decide⟩, ?_⟩
  rintro ⟨i, j, hi, -, hr, -⟩
  have h1 : i < 1 := hi
  have h0 : i = 0 := by omega
  subst h0
  revert hr
  decide

theorem witness_DrwBeyondMemoryFaultsBeforeDrawing :
    (2 : Nibble) ≠ 0 ∧ 4096 ≤ (State.reset.setI 0xFFF).i.toNat + (2 : Nibble).toNat - 1 := by decide

theorem witness_DrawingTwiceRestoresTheDisplay :
    ∃ t u : State, ((1 : Nibble) = 0 ∨ (sprite 0xD011 [0x80]).i.toNat + (1 : Nibble).toNat - 1 < 4096) ∧
      exec (.drw 0 1 1) (sprite 0xD011 [0x80]) = .next t ∧ u.disp = t.disp ∧ u.mem = t.mem ∧ u.i = t.i ∧
      u.getV 2 = (sprite 0xD011 [0x80]).getV 0 ∧ u.getV 3 = (sprite 0xD011 [0x80]).getV 1 := by
  refine ⟨_, (sprite 0xD011 [0x80]).setDisp ((sprite 0xD011 [0x80]).blit 0 1 1).disp, by decide, rfl, rfl, rfl, rfl, ?_, ?_⟩
  · decide
  · decide

theorem witness_LoadWritesTheProgramArea :
    0 < [0x12#8, 0x00#8].length ∧ 0x200 + 0 < 4096 ∧ 0x1FF < 0x200 ∧ 0x200 + [0x12#8, 0x00#8].length ≤ 0x202 := by decide

theorem witness_KeyEventsSetTheirOwnCell : (3 : Key) ≠ 7 := by decide

theorem witness_ResetErasesEverything : 79 < 80 ∧ 80 ≤ 80 := by decide

/-- A redraw flag already set, one that the cycle sets, and another host transaction. -/
theorem witness_OnlyTheHostClearsRedraw :
    ((placed 0x00E0).setRedraw true).redraw = true ∧ ((placed 0x00E0).setRedraw false).redraw = false ∧
    after ((placed 0x00E0).setRedraw false) (·.redraw) = some true ∧ HostMove.pause ≠ .ackRedraw ∧ HostMove.pause ≠ .reset := by
  decide

theorem witness_SelfJumpIsAFixedPoint :
    ((placed 0x1200).setOpcode 0x1200).executingWord = some ((placed 0x1200).setOpcode 0x1200).opcode ∧
    decodeWord ((placed 0x1200).setOpcode 0x1200).opcode = .ok (.jp 0x200) ∧
    ((placed 0x1200).setOpcode 0x1200).pc.toNat = (0x200 : Addr12).toNat ∧ ((placed 0x1200).setOpcode 0x1200).dt = 0 ∧
    ((placed 0x1200).setOpcode 0x1200).st = 0 ∧ ((placed 0x1200).setOpcode 0x1200).runMode = .running := by decide

theorem witness_EmptyProgramRunsOffTheEnd : 1792 ≤ 1792 := by decide

end Sys2Proof.Tests
end

section
/-! SUPPORT. The statements of 20_memory.md: what the host's `load` writes and what it leaves. -/

namespace Sys2Proof.Machine

/-- Replacing the memory touches no other element. -/
theorem State.setMem_unchangedExcept (s : State) (m : Memory) : UnchangedExcept [.mem] s (s.setMem m) := by
  intro e he
  cases e
  case mem => exact absurd (List.mem_singleton_self _) he
  all_goals simp [SameElem]

theorem State.load_unchangedExcept (s : State) (bytes : List Byte) : UnchangedExcept [.mem] s (s.load bytes) :=
  s.setMem_unchangedExcept _

/-- A byte of the ROM that falls below 4096 stands at its own address (20_memory.md R73). -/
theorem State.read_load_of_lt (s : State) (bytes : List Byte) (k : Nat) (hk : k < bytes.length)
    (hmem : Config.programBase + k < Config.memSize) :
    (s.load bytes).mem.read (Config.programBase + k) = bytes[k] := by
  have hin : Config.programBase ≤ Config.programBase + k ∧
      Config.programBase + k < Config.programBase + bytes.length ∧ Config.programBase + k < Config.memSize :=
    ⟨Nat.le_add_right _ _, Nat.add_lt_add_left hk _, hmem⟩
  rw [State.load, State.setMem_mem, Memory.read_writeBytes, dif_pos hin]
  simp only [Nat.add_sub_cancel_left]

/-- Below the program area, past the end of the ROM and past the end of memory, `load` changes no read
(20_memory.md R67, R73). -/
theorem State.read_load_of_outside (s : State) (bytes : List Byte) (a : Nat)
    (ha : a < Config.programBase ∨ Config.programBase + bytes.length ≤ a ∨ Config.memSize ≤ a) :
    (s.load bytes).mem.read a = s.mem.read a := by
  have hout : ¬(Config.programBase ≤ a ∧ a < Config.programBase + bytes.length ∧ a < Config.memSize) := by omega
  rw [State.load, State.setMem_mem, Memory.read_writeBytes, dif_neg hout]

/-- Settles O51: a read after `load` by whether its address lies in the stored part of the ROM, and the frame of the
one memory update that `load` is. -/
theorem loadWritesTheProgramArea : Obligations.LoadWritesTheProgramArea :=
  fun bytes s => ⟨s.read_load_of_lt bytes, s.read_load_of_outside bytes, s.load_unchangedExcept bytes⟩

end Sys2Proof.Machine
end

section
/-! SUPPORT. The statements of 41_control_flow.md on the absolute jump and on the skips by an immediate. -/

namespace Sys2Proof.Machine

/-- Writing `PC` touches no other element; `advance` and `skipIf` are such writes. -/
theorem State.setPc_unchangedExcept (s : State) (a : Word) : UnchangedExcept [.pc] s (s.setPc a) := by
  intro e he
  cases e
  case pc => exact absurd (List.mem_singleton_self _) he
  all_goals simp [SameElem]

theorem State.skipIf_unchangedExcept (s : State) (c : Bool) : UnchangedExcept [.pc] s (s.skipIf c) :=
  s.setPc_unchangedExcept _

/-- An address field keeps its value as a value of `PC` or `I` (30_encoding.md R92). -/
@[simp] theorem toNat_zext16 (nnn : Addr12) : (zext16 nnn).toNat = nnn.toNat :=
  BitVec.toNat_setWidth_of_le (by decide)

/-! ### What the instructions answer -/

theorem exec_jp (nnn : Addr12) (s : State) : exec (.jp nnn) s = .next (s.setPc (zext16 nnn)) := rfl

theorem exec_seImm (x : Reg) (kk : Byte) (s : State) :
    exec (.seImm x kk) s = .next (s.skipIf (s.getV x == kk)) := rfl

theorem exec_sneImm (x : Reg) (kk : Byte) (s : State) :
    exec (.sneImm x kk) s = .next (s.skipIf (s.getV x != kk)) := rfl

/-- A skip whose test says `P` when it is taken and `Q` when it is not: plus 4 on `P`, plus 2 on `Q` (10_state.md R24),
and nothing but `PC` changes. -/
theorem answers_skipIf {s : State} {o : StepOutcome} {c : Bool} {P Q : Prop} (ho : o = .next (s.skipIf c))
    (hP : c = true ↔ P) (hQ : c = false ↔ Q) :
    Answers o fun t => (P → t.pc = s.pc + 4) ∧ (Q → t.pc = s.pc + 2) ∧ UnchangedExcept [.pc] s t := by
  refine ⟨s.skipIf c, ho, fun h => ?_, fun h => ?_, s.skipIf_unchangedExcept c⟩
  · simp [hP.2 h]
  · simp [hQ.2 h]

/-! ### Encoding -/

theorem decodeWord_formatNNN_jp (nnn : Addr12) : decodeWord (formatNNN 0x1#4 nnn) = .ok (.jp nnn) := by
  rw [decodeWord_major1 (formatNNN_major _ _), formatNNN_nnn]

theorem decodeWord_formatXKK_seImm (x : Reg) (kk : Byte) :
    decodeWord (formatXKK 0x3#4 x kk) = .ok (.seImm x kk) := by
  rw [decodeWord_major3 (formatXKK_major _ _ _), formatXKK_x, formatXKK_kk]

theorem decodeWord_formatXKK_sneImm (x : Reg) (kk : Byte) :
    decodeWord (formatXKK 0x4#4 x kk) = .ok (.sneImm x kk) := by
  rw [decodeWord_major4 (formatXKK_major _ _ _), formatXKK_x, formatXKK_kk]

/-! ### The obligations -/

/-- Settles O26: the one write of `PC` that the jump is, and the frame of that write. -/
theorem jpGoesToItsAddress : Obligations.JpGoesToItsAddress :=
  fun nnn s => ⟨decodeWord_formatNNN_jp nnn, _, exec_jp nnn s, toNat_zext16 nnn, s.setPc_unchangedExcept _⟩

/-- Settles O31: both instructions are skips, one on the equality test and one on its negation. -/
theorem skipsOnImmediateCompare : Obligations.SkipsOnImmediateCompare :=
  fun x kk s => ⟨decodeWord_formatXKK_seImm x kk, decodeWord_formatXKK_sneImm x kk,
    answers_skipIf (exec_seImm x kk s) beq_iff_eq beq_eq_false_iff_ne,
    answers_skipIf (exec_sneImm x kk s) bne_iff_ne bne_eq_false_iff_eq⟩

end Sys2Proof.Machine
end

section
/-! SUPPORT. The statements of 42_alu.md on the loads, the immediate addition and the bitwise logic: the instructions
that are one write of a register and a step of `PC`. -/

namespace Sys2Proof.Machine

/-! ### The shared write `loadV` -/

@[simp] theorem State.getV_loadV (s : State) (x : Reg) (b : Byte) (y : Reg) :
    (s.loadV x b).getV y = if y = x then b else s.getV y :=
  s.getV_setV x b y

theorem State.getV_loadV_same (s : State) (x : Reg) (b : Byte) : (s.loadV x b).getV x = b := by
  rw [State.getV_loadV, if_pos rfl]

theorem State.getV_loadV_of_ne (s : State) (x : Reg) (b : Byte) {z : Reg} (hz : z ≠ x) :
    (s.loadV x b).getV z = s.getV z := by
  rw [State.getV_loadV, if_neg hz]

@[simp] theorem State.loadV_pc (s : State) (x : Reg) (b : Byte) : (s.loadV x b).pc = s.pc + 2 := rfl

theorem State.loadV_unchangedExcept (s : State) (x : Reg) (b : Byte) : UnchangedExcept [.v, .pc] s (s.loadV x b) := by
  intro e he
  cases e
  case v => exact absurd (by decide) he
  case pc => exact absurd (by decide) he
  all_goals simp [SameElem, State.loadV]

/-- An outcome that is such a write: what `P` says of the register is what it says of the written state; `PC` goes on by
2, and no other register and no other element changes. -/
theorem answers_loadV {s : State} {o : StepOutcome} {x : Reg} {b : Byte} {P : State → Prop}
    (ho : o = .next (s.loadV x b)) (hP : P (s.loadV x b)) :
    Answers o fun t =>
      P t ∧ t.pc = s.pc + 2 ∧ (∀ z, z ≠ x → t.getV z = s.getV z) ∧ UnchangedExcept [.v, .pc] s t :=
  ⟨s.loadV x b, ho, hP, s.loadV_pc x b, fun _ hz => s.getV_loadV_of_ne x b hz, s.loadV_unchangedExcept x b⟩

/-! ### What the instructions answer -/

theorem exec_ldImm (x : Reg) (kk : Byte) (s : State) : exec (.ldImm x kk) s = .next (s.loadV x kk) := rfl

theorem exec_addImm (x : Reg) (kk : Byte) (s : State) :
    exec (.addImm x kk) s = .next (s.loadV x (s.getV x + kk)) := rfl

theorem exec_ldReg (x y : Reg) (s : State) : exec (.ldReg x y) s = .next (s.loadV x (s.getV y)) := rfl

theorem exec_orReg (x y : Reg) (s : State) :
    exec (.orReg x y) s = .next (s.loadV x (s.getV x ||| s.getV y)) := rfl

theorem exec_andReg (x y : Reg) (s : State) :
    exec (.andReg x y) s = .next (s.loadV x (s.getV x &&& s.getV y)) := rfl

theorem exec_xorReg (x y : Reg) (s : State) :
    exec (.xorReg x y) s = .next (s.loadV x (s.getV x ^^^ s.getV y)) := rfl

/-! ### Encoding -/

theorem decodeWord_formatXKK_ldImm (x : Reg) (kk : Byte) :
    decodeWord (formatXKK 0x6#4 x kk) = .ok (.ldImm x kk) := by
  rw [decodeWord_major6 (formatXKK_major _ _ _), formatXKK_x, formatXKK_kk]

theorem decodeWord_formatXKK_addImm (x : Reg) (kk : Byte) :
    decodeWord (formatXKK 0x7#4 x kk) = .ok (.addImm x kk) := by
  rw [decodeWord_major7 (formatXKK_major _ _ _), formatXKK_x, formatXKK_kk]

/-- Major opcode 0x8 leaves the choice to the low nibble (30_encoding.md R93). -/
theorem decodeWord_formatXYN_eight (x y : Reg) (n : Nibble) :
    decodeWord (formatXYN 0x8#4 x y n) = decodeEight (formatXYN 0x8#4 x y n) :=
  decodeWord_major8 (formatXYN_major _ _ _ _)

theorem decodeWord_formatXYN_ldReg (x y : Reg) : decodeWord (formatXYN 0x8#4 x y 0x0#4) = .ok (.ldReg x y) := by
  rw [decodeWord_formatXYN_eight]; simp [decodeEight]

theorem decodeWord_formatXYN_orReg (x y : Reg) : decodeWord (formatXYN 0x8#4 x y 0x1#4) = .ok (.orReg x y) := by
  rw [decodeWord_formatXYN_eight]; simp [decodeEight]

theorem decodeWord_formatXYN_andReg (x y : Reg) : decodeWord (formatXYN 0x8#4 x y 0x2#4) = .ok (.andReg x y) := by
  rw [decodeWord_formatXYN_eight]; simp [decodeEight]

theorem decodeWord_formatXYN_xorReg (x y : Reg) : decodeWord (formatXYN 0x8#4 x y 0x3#4) = .ok (.xorReg x y) := by
  rw [decodeWord_formatXYN_eight]; simp [decodeEight]

/-! ### The obligations -/

/-- Settles O34: each of the three is one `loadV`, of `kk`, of the reduced sum and of `Vy`. -/
theorem loadsAndAddImmediate : Obligations.LoadsAndAddImmediate := by
  intro x y kk s
  refine ⟨decodeWord_formatXKK_ldImm x kk, decodeWord_formatXKK_addImm x kk, decodeWord_formatXYN_ldReg x y,
    answers_loadV (exec_ldImm x kk s) (s.getV_loadV_same x _), answers_loadV (exec_addImm x kk s) ?_,
    answers_loadV (exec_ldReg x y s) (s.getV_loadV_same x _)⟩
  rw [s.getV_loadV_same, BitVec.toNat_add]

/-- Settles O35: each of the three is one `loadV`, of a bitwise combination of `Vx` and `Vy`. -/
theorem logicIsBitwiseAndKeepsVF : Obligations.LogicIsBitwiseAndKeepsVF := by
  intro x y s
  refine ⟨decodeWord_formatXYN_orReg x y, decodeWord_formatXYN_andReg x y, decodeWord_formatXYN_xorReg x y,
    answers_loadV (exec_orReg x y s) fun b _ => ?or, answers_loadV (exec_andReg x y s) fun b _ => ?and,
    answers_loadV (exec_xorReg x y s) fun b _ => ?xor⟩
  case or => rw [s.getV_loadV_same, BitVec.getLsbD_or]
  case and => rw [s.getV_loadV_same, BitVec.getLsbD_and]
  case xor => rw [s.getV_loadV_same, BitVec.getLsbD_xor]

end Sys2Proof.Machine
end

section
/-! SUPPORT. The statements of 43_index_memory.md on the load of `I` and on the two stores. -/

namespace Sys2Proof.Machine

/-! ### Frames of a sequence of writes -/

theorem SameElem.trans {s t u : State} {e : Elem} (hst : SameElem s t e) (htu : SameElem t u e) : SameElem s u e := by
  cases e
  case v | stack | mem | key => exact fun k => (htu k).trans (hst k)
  case disp => exact fun r c => (htu r c).trans (hst r c)
  all_goals exact Eq.trans htu hst

/-- Two writes in a row change no more than what the one and the other change. -/
theorem UnchangedExcept.trans {l l' : List Elem} {s t u : State} (hst : UnchangedExcept l s t)
    (htu : UnchangedExcept l' t u) : UnchangedExcept (l ++ l') s u := fun e he =>
  (hst e fun h => he (List.mem_append_left l' h)).trans (htu e fun h => he (List.mem_append_right l h))

theorem State.advance_unchangedExcept (s : State) (n : Word) : UnchangedExcept [.pc] s (s.advance n) :=
  s.setPc_unchangedExcept _

/-- Writing `I` touches no other element. -/
theorem State.setI_unchangedExcept (s : State) (a : Word) : UnchangedExcept [.i] s (s.setI a) := by
  intro e he
  cases e
  case i => exact absurd (List.mem_singleton_self _) he
  all_goals simp [SameElem]

/-! ### The shared write `storeBytes` -/

/-- A stored byte that falls below 4096 stands at its own address (43_index_memory.md R200). -/
theorem State.read_storeBytes_of_lt (s : State) (bs : List Byte) (k : Nat) (hk : k < bs.length)
    (hmem : s.dataAddr k < Config.memSize) : (s.storeBytes bs).mem.read (s.dataAddr k) = bs[k] := by
  have hin : s.dataAddr 0 ≤ s.dataAddr k ∧ s.dataAddr k < s.dataAddr 0 + bs.length ∧
      s.dataAddr k < Config.memSize := by
    simp only [State.dataAddr] at hmem ⊢; omega
  have hidx : s.dataAddr k - s.dataAddr 0 = k := by
    rw [State.dataAddr, State.dataAddr, Nat.add_zero, Nat.add_sub_cancel_left]
  rw [State.storeBytes, State.advance_mem, State.setMem_mem, Memory.read_writeBytes, dif_pos hin]
  simp only [hidx]

/-- Below `I`, past the last byte and past the end of memory, no read changes (20_memory.md R67). -/
theorem State.read_storeBytes_of_outside (s : State) (bs : List Byte) (a : Nat)
    (ha : a < s.dataAddr 0 ∨ s.dataAddr bs.length ≤ a ∨ Config.memSize ≤ a) :
    (s.storeBytes bs).mem.read a = s.mem.read a := by
  have hout : ¬(s.dataAddr 0 ≤ a ∧ a < s.dataAddr 0 + bs.length ∧ a < Config.memSize) := by
    simp only [State.dataAddr] at ha ⊢; omega
  rw [State.storeBytes, State.advance_mem, State.setMem_mem, Memory.read_writeBytes, dif_neg hout]

@[simp] theorem State.storeBytes_pc (s : State) (bs : List Byte) : (s.storeBytes bs).pc = s.pc + 2 := rfl

theorem State.storeBytes_unchangedExcept (s : State) (bs : List Byte) :
    UnchangedExcept [.mem, .pc] s (s.storeBytes bs) :=
  (s.setMem_unchangedExcept _).trans (State.advance_unchangedExcept _ 2)

/-- What a store of the bytes up to index `n` leaves: every byte outside `I..I + n` and every element but memory and
`PC`, which goes on by 2. -/
theorem State.storeBytes_frame (s : State) {bs : List Byte} {n : Nat} (hn : bs.length = n + 1) :
    (∀ a, a < s.dataAddr 0 ∨ s.dataAddr n < a ∨ 4096 ≤ a → (s.storeBytes bs).mem.read a = s.mem.read a) ∧
      (s.storeBytes bs).pc = s.pc + 2 ∧ UnchangedExcept [.mem, .pc] s (s.storeBytes bs) := by
  refine ⟨fun a ha => s.read_storeBytes_of_outside bs a ?_, s.storeBytes_pc bs, s.storeBytes_unchangedExcept bs⟩
  rw [hn]
  exact ha

/-! ### The stored bytes -/

/-- A digit of a byte is stored in full: it fits in a byte. -/
theorem toNat_ofNat_of_le_byte {b : Byte} {d : Nat} (hd : d ≤ b.toNat) : (BitVec.ofNat 8 d).toNat = d :=
  (BitVec.toNat_ofNat d 8).trans (Nat.mod_eq_of_lt (hd.trans_lt b.isLt))

@[simp] theorem length_decimalDigits (b : Byte) : (decimalDigits b).length = 3 := rfl

theorem toNat_decimalDigits_hundreds (b : Byte) (h : 0 < (decimalDigits b).length) :
    (decimalDigits b)[0].toNat = b.toNat / 100 :=
  toNat_ofNat_of_le_byte (Nat.div_le_self _ _)

theorem toNat_decimalDigits_tens (b : Byte) (h : 1 < (decimalDigits b).length) :
    (decimalDigits b)[1].toNat = b.toNat / 10 % 10 :=
  toNat_ofNat_of_le_byte ((Nat.mod_le _ _).trans (Nat.div_le_self _ _))

theorem toNat_decimalDigits_units (b : Byte) (h : 2 < (decimalDigits b).length) :
    (decimalDigits b)[2].toNat = b.toNat % 10 :=
  toNat_ofNat_of_le_byte (Nat.mod_le _ _)

/-- The bytes V0..Vx that LD [I], Vx stores (43_index_memory.md R204). -/
theorem length_blockBytes (s : State) (x : Reg) : ((regsUpTo x).map s.getV).length = x.val + 1 := by
  rw [List.length_map, length_regsUpTo]

theorem getElem_blockBytes (s : State) (x k : Reg) (h : k.val < ((regsUpTo x).map s.getV).length) :
    ((regsUpTo x).map s.getV)[k.val] = s.getV k := by
  rw [List.getElem_map, getElem_regsUpTo]

/-! ### What the instructions answer -/

theorem exec_ldI (nnn : Addr12) (s : State) : exec (.ldI nnn) s = .next ((s.setI (zext16 nnn)).advance 2) := rfl

theorem exec_ldB (x : Reg) (s : State) : exec (.ldB x) s = .next (s.storeBytes (decimalDigits (s.getV x))) := rfl

theorem exec_ldMemVx (x : Reg) (s : State) :
    exec (.ldMemVx x) s = .next (s.storeBytes ((regsUpTo x).map s.getV)) := rfl

/-! ### Encoding -/

theorem decodeWord_formatNNN_ldI (nnn : Addr12) : decodeWord (formatNNN 0xA#4 nnn) = .ok (.ldI nnn) := by
  rw [decodeWord_majorA (formatNNN_major _ _), formatNNN_nnn]

/-- Major opcode 0xF leaves the choice to the low byte (30_encoding.md R93). -/
theorem decodeWord_formatXKK_f (x : Reg) (kk : Byte) :
    decodeWord (formatXKK 0xF#4 x kk) = decodeF (formatXKK 0xF#4 x kk) :=
  decodeWord_majorF (formatXKK_major _ _ _)

theorem decodeWord_formatXKK_ldB (x : Reg) : decodeWord (formatXKK 0xF#4 x 0x33) = .ok (.ldB x) := by
  rw [decodeWord_formatXKK_f]; simp [decodeF]

theorem decodeWord_formatXKK_ldMemVx (x : Reg) : decodeWord (formatXKK 0xF#4 x 0x55) = .ok (.ldMemVx x) := by
  rw [decodeWord_formatXKK_f]; simp [decodeF]

/-! ### The obligations -/

/-- Settles O40: the write of `I` with the address field, and the frame of that write and of the step of `PC`. -/
theorem ldILoadsTheAddress : Obligations.LdILoadsTheAddress :=
  fun nnn s => ⟨decodeWord_formatNNN_ldI nnn, _, exec_ldI nnn s, toNat_zext16 nnn, rfl,
    (s.setI_unchangedExcept _).trans (State.advance_unchangedExcept _ 2)⟩

/-- Settles O43: one `storeBytes` of the registers V0..Vx, of which the byte at `I + k` is `Vk`. -/
theorem ldMemVxStoresTheBlock : Obligations.LdMemVxStoresTheBlock := by
  intro x s
  have hlen := length_blockBytes s x
  refine ⟨decodeWord_formatXKK_ldMemVx x, _, exec_ldMemVx x s, fun k hk hmem => ?_, s.storeBytes_frame hlen⟩
  have hlt : k.val < ((regsUpTo x).map s.getV).length := hlen ▸ Nat.lt_succ_of_le hk
  rw [s.read_storeBytes_of_lt _ k.val hlt hmem, getElem_blockBytes]

/-- Settles O42: one `storeBytes` of the three decimal digits of `Vx`. -/
theorem ldBStoresThreeDecimalDigits : Obligations.LdBStoresThreeDecimalDigits := by
  intro x s
  have hread := s.read_storeBytes_of_lt (decimalDigits (s.getV x))
  have hlen := length_decimalDigits (s.getV x)
  refine ⟨decodeWord_formatXKK_ldB x, _, exec_ldB x s, fun h0 => ?hundreds, fun h1 => ?tens, fun h2 => ?units,
    s.storeBytes_frame hlen⟩
  case hundreds => rw [hread 0 (by omega) h0, toNat_decimalDigits_hundreds]
  case tens => rw [hread 1 (by omega) h1, toNat_decimalDigits_tens]
  case units => rw [hread 2 (by omega) h2, toNat_decimalDigits_units]

end Sys2Proof.Machine
end

section
/-! SUPPORT. The statement of 44_display.md on the clearing of the display. -/

namespace Sys2Proof.Machine

/-- The frame of an instruction that raises no fault, for the state it answers: nothing outside `mayWrite` changes
(10_state.md R40). -/
theorem exec_unchangedExcept_mayWrite {i : Instr} {s t : State} (hf : faultOf s i = .none)
    (ht : exec i s = .next t) : UnchangedExcept (mayWrite i) s t := by
  obtain ⟨u, hu, hcompletes⟩ := exec_of_no_fault hf
  obtain rfl : u = t := Host.Outcome.next.inj (hu.symm.trans ht)
  exact hcompletes.frame

theorem exec_cls (s : State) :
    exec .cls s = .next (((s.setDisp Display.clear).setRedraw true).advance 2) := rfl

/-- The word 0x00E0 is one of the two of major opcode 0x0 (30_encoding.md R93). -/
theorem decodeWord_cls : decodeWord 0x00E0#16 = .ok .cls := by decide

/-- Settles O45: the write of the cleared display and of the redraw flag, and the frame of an instruction that never
faults; VF is in that frame. -/
theorem clsClearsEveryPixel : Obligations.ClsClearsEveryPixel := by
  intro s
  refine ⟨decodeWord_cls, _, exec_cls s, fun r c => ?pixels, ?redraw, ?pc,
    exec_unchangedExcept_mayWrite (i := .cls) rfl (exec_cls s)⟩
  case pixels => rw [State.advance_disp, State.setRedraw_disp, State.setDisp_disp, Display.pixel_clear]
  case redraw => rw [State.advance_redraw, State.setRedraw_redraw]
  case pc => rw [State.advance_pc, State.setRedraw_pc, State.setDisp_pc]

end Sys2Proof.Machine
end

section
/-! SUPPORT. The statement of 47_host_interface.md on the redraw flag: who raises it and who clears it. -/

namespace Sys2Proof.Machine

/-- Writing the redraw flag touches no other element. -/
theorem State.setRedraw_unchangedExcept (s : State) (b : Bool) : UnchangedExcept [.redraw] s (s.setRedraw b) := by
  intro e he
  cases e
  case redraw => exact absurd (List.mem_singleton_self _) he
  all_goals simp [SameElem]

/-! ### The host's transactions -/

@[simp] theorem State.pause_redraw (s : State) : s.pause.redraw = s.redraw := by
  unfold State.pause; split <;> rfl

@[simp] theorem State.singleStep_redraw (s : State) : s.singleStep.redraw = s.redraw := by
  unfold State.singleStep; split <;> rfl

/-- The transactions but `ackRedraw` and `reset` are writes of other elements (47_host_interface.md R262 to R270). -/
theorem hostMove_redraw (s : State) {m : HostMove} (hack : m ≠ .ackRedraw) (hreset : m ≠ .reset) :
    (hostMove m s).redraw = s.redraw := by
  cases m with
  | load bytes => exact s.setMem_redraw _
  | keyDown k => exact (State.setLastKey_redraw _ k).trans (s.setKey_redraw k true)
  | keyUp k => exact s.setKey_redraw k false
  | pause => exact s.pause_redraw
  | resume => exact s.setRunMode_redraw .running
  | singleStep => exact s.singleStep_redraw
  | reset => exact absurd rfl hreset
  | ackRedraw => exact absurd rfl hack

/-! ### The instructions -/

/-- The two writers of the redraw flag (10_state.md R30). -/
theorem redraw_mem_mayWrite_iff (i : Instr) :
    .redraw ∈ mayWrite i ↔ i = .cls ∨ ∃ x y n, i = .drw x y n := by
  cases i <;> simp [mayWrite]

/-- DRW within memory draws and raises the redraw flag (44_display.md R222). -/
theorem exec_drw_of_no_fault {x y : Reg} {n : Nibble} {s : State} (h : s.spriteOutOfRange n = false) :
    exec (.drw x y n) s = .next
      ((((s.setDisp (s.blit x y n).disp).setV vf (flagByte (s.blit x y n).collision)).setRedraw true).advance 2) :=
  if_neg (Bool.eq_false_iff.1 h)

theorem faultOf_drw_eq_none_iff {x y : Reg} {n : Nibble} {s : State} :
    faultOf s (.drw x y n) = .none ↔ s.spriteOutOfRange n = false := by
  simp [faultOf]

/-- A completed instruction that may write the redraw flag sets it. -/
theorem redraw_of_mem_mayWrite {i : Instr} {s t : State} (hi : .redraw ∈ mayWrite i) (hf : faultOf s i = .none)
    (ht : exec i s = .next t) : t.redraw = true := by
  rcases (redraw_mem_mayWrite_iff i).1 hi with rfl | ⟨x, y, n, rfl⟩
  · obtain rfl := Host.Outcome.next.inj ((exec_cls s).symm.trans ht)
    rw [State.advance_redraw, State.setRedraw_redraw]
  · obtain rfl := Host.Outcome.next.inj ((exec_drw_of_no_fault (faultOf_drw_eq_none_iff.1 hf)).symm.trans ht)
    rw [State.advance_redraw, State.setRedraw_redraw]

/-! ### The cycle -/

@[simp] theorem State.resolveKeyWait_redraw (s : State) (k : Key) : (s.resolveKeyWait k).redraw = s.redraw := rfl

/-- A cycle keeps the redraw flag, or executes an instruction that may write it and sets it. -/
theorem step_redraw (s : State) :
    Answers (step s) fun t =>
      t.redraw = s.redraw ∨ (t.redraw = true ∧ ∃ i, s.executing = some i ∧ .redraw ∈ mayWrite i) := by
  rcases step_cases s with ⟨-, ht⟩ | ⟨-, -, ht⟩ | ⟨w, -, -, -, -, ht⟩ | ⟨w, k, -, -, -, -, ⟨ht, -⟩ | ⟨ht, -⟩⟩ |
    ⟨w, i, u, hw, hd, hf, hu, hcompletes, ht⟩ | ⟨w, -, -, ht⟩ | ⟨w, i, -, -, -, ht⟩
  -- The cycle of a completed instruction; every other cycle writes elements other than the flag.
  case inr.inr.inr.inr.inl =>
    have hredraw : (s.endCycle u.timerTick).redraw = u.redraw := by simp
    by_cases hi : .redraw ∈ mayWrite i
    · exact ⟨_, ht, .inr ⟨hredraw.trans (redraw_of_mem_mayWrite hi hf hu), i,
        State.executing_eq_some.2 ⟨w, hw, hd⟩, hi⟩⟩
    · exact ⟨_, ht, .inl (hredraw.trans (hcompletes.frame .redraw hi))⟩
  all_goals exact ⟨_, ht, .inl (by simp)⟩

/-- Settles O55: the acknowledge is one write of the flag, the other transactions write other elements, and a cycle
keeps the flag unless it executes one of the flag's two writers, which set it. -/
theorem onlyTheHostClearsRedraw : Obligations.OnlyTheHostClearsRedraw := by
  intro s
  refine ⟨s.setRedraw_redraw false, s.setRedraw_unchangedExcept false, fun m => hostMove_redraw s, ?_⟩
  obtain ⟨t, ht, hkept | ⟨hset, i, hi, hwrites⟩⟩ := step_redraw s
  · exact ⟨t, ht, hkept.trans, fun hclear hraised => absurd (hraised.symm.trans (hkept.trans hclear)) (by decide)⟩
  · refine ⟨t, ht, fun _ => hset, fun _ _ => ?_⟩
    rcases (redraw_mem_mayWrite_iff i).1 hwrites with rfl | ⟨x, y, n, rfl⟩
    · exact .inl hi
    · exact .inr ⟨x, y, n, hi⟩

end Sys2Proof.Machine
end

section
/-! SUPPORT. The statements of 30_encoding.md: encoding and decoding undo each other, and the decoder is the exact match
of the opcode table. -/

namespace Sys2Proof.Machine

/-! ### Decoding an encoded instruction -/

theorem decodeWord_formatXYN_seReg (x y : Reg) : decodeWord (formatXYN 0x5#4 x y 0x0#4) = .ok (.seReg x y) := by
  rw [decodeWord_major5 (formatXYN_major _ _ _ _), if_pos (formatXYN_n _ _ _ _), formatXYN_x, formatXYN_y]

theorem decodeWord_formatXYN_sneReg (x y : Reg) : decodeWord (formatXYN 0x9#4 x y 0x0#4) = .ok (.sneReg x y) := by
  rw [decodeWord_major9 (formatXYN_major _ _ _ _), if_pos (formatXYN_n _ _ _ _), formatXYN_x, formatXYN_y]

/-- Major opcode 0xE leaves the choice to the low byte (30_encoding.md R93). -/
theorem decodeWord_formatXKK_e (x : Reg) (kk : Byte) :
    decodeWord (formatXKK 0xE#4 x kk) = decodeE (formatXKK 0xE#4 x kk) :=
  decodeWord_majorE (formatXKK_major _ _ _)

theorem decodeWord_encode (i : Instr) : decodeWord (encode i) = .ok i := by
  cases i with
  | cls | ret => decide
  | jp nnn => exact decodeWord_formatNNN_jp nnn
  | call nnn => rw [encode, decodeWord_major2 (formatNNN_major _ _), formatNNN_nnn]
  | seImm x kk => exact decodeWord_formatXKK_seImm x kk
  | sneImm x kk => exact decodeWord_formatXKK_sneImm x kk
  | seReg x y => exact decodeWord_formatXYN_seReg x y
  | ldImm x kk => exact decodeWord_formatXKK_ldImm x kk
  | addImm x kk => exact decodeWord_formatXKK_addImm x kk
  | ldReg x y | orReg x y | andReg x y | xorReg x y | addReg x y | sub x y | shr x y | subn x y | shl x y =>
    rw [encode, decodeWord_formatXYN_eight]; simp [decodeEight]
  | sneReg x y => exact decodeWord_formatXYN_sneReg x y
  | ldI nnn => exact decodeWord_formatNNN_ldI nnn
  | jpV0 nnn => rw [encode, decodeWord_majorB (formatNNN_major _ _), formatNNN_nnn]
  | rnd x kk => rw [encode, decodeWord_majorC (formatXKK_major _ _ _), formatXKK_x, formatXKK_kk]
  | drw x y n => rw [encode, decodeWord_majorD (formatXYN_major _ _ _ _), formatXYN_x, formatXYN_y, formatXYN_n]
  | skp x | sknp x => rw [encode, decodeWord_formatXKK_e]; simp [decodeE]
  | ldVxDt x | ldVxK x | ldDtVx x | ldStVx x | addI x | ldF x | ldB x | ldMemVx x | ldVxMem x =>
    rw [encode, decodeWord_formatXKK_f]; simp [decodeF]

/-- The two bytes of an instruction are read, the rest is returned (30_encoding.md R90). -/
theorem decodeBytes_encodeBytes_append (i : Instr) (rest : List Byte) :
    decodeBytes (encodeBytes i ++ rest) = .ok (i, rest) := by
  simp [encodeBytes, decodeBytes, decodeWord_encode]

open Laws.RowDigits in
/-- Every instruction carries the fixed digits of its row, and its operands are in range. -/
theorem rowDigits : (i : Instr) → Statement i
  | .cls => cls | .ret => ret | .jp nnn => jp nnn | .call nnn => call nnn | .seImm x kk => seImm x kk
  | .sneImm x kk => sneImm x kk | .seReg x y => seReg x y | .ldImm x kk => ldImm x kk | .addImm x kk => addImm x kk
  | .ldReg x y => ldReg x y | .orReg x y => orReg x y | .andReg x y => andReg x y | .xorReg x y => xorReg x y
  | .addReg x y => addReg x y | .sub x y => sub x y | .shr x y => shr x y | .subn x y => subn x y | .shl x y => shl x y
  | .sneReg x y => sneReg x y | .ldI nnn => ldI nnn | .jpV0 nnn => jpV0 nnn | .rnd x kk => rnd x kk
  | .drw x y n => drw x y n | .skp x => skp x | .sknp x => sknp x | .ldVxDt x => ldVxDt x | .ldVxK x => ldVxK x
  | .ldDtVx x => ldDtVx x | .ldStVx x => ldStVx x | .addI x => addI x | .ldF x => ldF x | .ldB x => ldB x
  | .ldMemVx x => ldMemVx x | .ldVxMem x => ldVxMem x

/-- Settles O1: the decoder finds the fixed digits of each format and gives back its fields, by word and by bytes. -/
theorem decodeOfEncodeIsIdentity : Obligations.DecodeOfEncodeIsIdentity :=
  fun i rest => ⟨(rowDigits i).2, decodeWord_encode i, decodeBytes_encodeBytes_append i rest⟩

/-! ### Encoding a decoded instruction -/

theorem encode_of_decodeZero {w : Word} {i : Instr} (h : decodeZero w = .ok i) : encode i = w := by
  unfold decodeZero at h
  split_ifs at h with hw hw'
  · obtain rfl := Except.ok.inj h; exact hw.symm
  · obtain rfl := Except.ok.inj h; exact hw'.symm

theorem encode_of_decodeEight {w : Word} {i : Instr} (hm : w.major = 0x8#4) (h : decodeEight w = .ok i) :
    encode i = w := by
  unfold decodeEight at h
  split_ifs at h
  all_goals obtain rfl := Except.ok.inj h; exact formatXY_of_digits hm ‹_›

theorem encode_of_decodeE {w : Word} {i : Instr} (hm : w.major = 0xE#4) (h : decodeE w = .ok i) : encode i = w := by
  unfold decodeE at h
  split_ifs at h
  all_goals obtain rfl := Except.ok.inj h; exact formatXF_of_digits hm ‹_›

theorem encode_of_decodeF {w : Word} {i : Instr} (hm : w.major = 0xF#4) (h : decodeF w = .ok i) : encode i = w := by
  unfold decodeF at h
  split_ifs at h
  all_goals obtain rfl := Except.ok.inj h; exact formatXF_of_digits hm ‹_›

/-- Settles O2: for each major opcode the fields the decoder took are all the bits that its matched digits leave. -/
theorem encodeOfDecodeIsIdentity : Obligations.EncodeOfDecodeIsIdentity := by
  intro w i h
  rcases nibble_cases w.major with m | m | m | m | m | m | m | m | m | m | m | m | m | m | m | m
  · exact encode_of_decodeZero (decodeWord_major0 m ▸ h)
  · exact Except.ok.inj ((decodeWord_major1 m).symm.trans h) ▸ formatNNN_of_digits m
  · exact Except.ok.inj ((decodeWord_major2 m).symm.trans h) ▸ formatNNN_of_digits m
  · exact Except.ok.inj ((decodeWord_major3 m).symm.trans h) ▸ formatXKK_of_digits m
  · exact Except.ok.inj ((decodeWord_major4 m).symm.trans h) ▸ formatXKK_of_digits m
  · rw [decodeWord_major5 m] at h; split_ifs at h with hn
    obtain rfl := Except.ok.inj h; exact formatXY_of_digits m hn
  · exact Except.ok.inj ((decodeWord_major6 m).symm.trans h) ▸ formatXKK_of_digits m
  · exact Except.ok.inj ((decodeWord_major7 m).symm.trans h) ▸ formatXKK_of_digits m
  · exact encode_of_decodeEight m (decodeWord_major8 m ▸ h)
  · rw [decodeWord_major9 m] at h; split_ifs at h with hn
    obtain rfl := Except.ok.inj h; exact formatXY_of_digits m hn
  · exact Except.ok.inj ((decodeWord_majorA m).symm.trans h) ▸ formatNNN_of_digits m
  · exact Except.ok.inj ((decodeWord_majorB m).symm.trans h) ▸ formatNNN_of_digits m
  · exact Except.ok.inj ((decodeWord_majorC m).symm.trans h) ▸ formatXKK_of_digits m
  · exact Except.ok.inj ((decodeWord_majorD m).symm.trans h) ▸ formatXYN_of_digits m
  · exact encode_of_decodeE m (decodeWord_majorE m ▸ h)
  · exact encode_of_decodeF m (decodeWord_majorF m ▸ h)

end Sys2Proof.Machine

namespace Sys2Proof

/-! ### The opcode table -/

theorem Row.covers_iff (r : Row) (w : Word) : r.covers w = true ↔ w &&& r.mask = r.pattern := beq_iff_eq

theorem Word.major_and (w v : Word) : Word.major (w &&& v) = w.major &&& v.major := BitVec.extractLsb'_and

theorem Word.n_and (w v : Word) : Word.n (w &&& v) = w.n &&& v.n := BitVec.extractLsb'_and

theorem Word.kk_and (w v : Word) : Word.kk (w &&& v) = w.kk &&& v.kk := BitVec.extractLsb'_and

/-- Every row fixes the whole major opcode (30_encoding.md R93). -/
theorem Row.major_of_covers {r : Row} {w : Word} (hr : r ∈ opcodeTable) (h : r.covers w = true) :
    w.major = r.pattern.major := by
  have hmask : ∀ r ∈ opcodeTable, r.mask.major = BitVec.allOnes 4 := by decide
  rw [← (r.covers_iff w).1 h, Word.major_and, hmask r hr, BitVec.and_allOnes]

theorem Row.n_of_covers {r : Row} {w : Word} (hmask : r.mask.n = BitVec.allOnes 4) (h : r.covers w = true) :
    w.n = r.pattern.n := by
  rw [← (r.covers_iff w).1 h, Word.n_and, hmask, BitVec.and_allOnes]

theorem Row.kk_of_covers {r : Row} {w : Word} (hmask : r.mask.kk = BitVec.allOnes 8) (h : r.covers w = true) :
    w.kk = r.pattern.kk := by
  rw [← (r.covers_iff w).1 h, Word.kk_and, hmask, BitVec.and_allOnes]

theorem Row.eq_of_covers {r : Row} {w : Word} (hmask : r.mask = BitVec.allOnes 16) (h : r.covers w = true) :
    w = r.pattern := by
  rw [← (r.covers_iff w).1 h, hmask, BitVec.and_allOnes]

/-- A word that a row covers decodes to an instruction of that row: major opcodes 0x0 to 0x7. -/
theorem Row.decodes_controlAndImmediate {r : Row} {w : Word} (hr : r ∈ rowsControlAndImmediate)
    (h : r.covers w = true) : ∃ i, decodeWord w = .ok i ∧ i.row = r := by
  have hm := Row.major_of_covers (List.mem_append_left _ hr) h
  simp only [rowsControlAndImmediate, List.mem_cons, List.not_mem_nil, or_false] at hr
  rcases hr with rfl | rfl | rfl | rfl | rfl | rfl | rfl | rfl | rfl
  · exact ⟨.cls, Row.eq_of_covers (by decide) h ▸ by decide, rfl⟩
  · exact ⟨.ret, Row.eq_of_covers (by decide) h ▸ by decide, rfl⟩
  · exact ⟨_, decodeWord_major1 hm, rfl⟩
  · exact ⟨_, decodeWord_major2 hm, rfl⟩
  · exact ⟨_, decodeWord_major3 hm, rfl⟩
  · exact ⟨_, decodeWord_major4 hm, rfl⟩
  · exact ⟨_, (decodeWord_major5 hm).trans (if_pos (Row.n_of_covers (by decide) h)), rfl⟩
  · exact ⟨_, decodeWord_major6 hm, rfl⟩
  · exact ⟨_, decodeWord_major7 hm, rfl⟩

/-- The same for major opcode 0x8, whose rows fix the low nibble. -/
theorem Row.decodes_eight {r : Row} {w : Word} (hr : r ∈ rowsEight) (h : r.covers w = true) :
    ∃ i, decodeWord w = .ok i ∧ i.row = r := by
  have hrow : ∀ r ∈ rowsEight, r ∈ opcodeTable ∧ r.pattern.major = 0x8#4 ∧ r.mask.n = BitVec.allOnes 4 := by decide
  obtain ⟨htable, hmajor, hmask⟩ := hrow r hr
  have hn := Row.n_of_covers hmask h
  rw [decodeWord_major8 ((Row.major_of_covers htable h).trans hmajor), decodeEight, hn]
  simp only [rowsEight, List.mem_cons, List.not_mem_nil, or_false] at hr
  rcases hr with rfl | rfl | rfl | rfl | rfl | rfl | rfl | rfl | rfl
  all_goals exact ⟨_, rfl, rfl⟩

/-- The same for major opcodes 0x9 to 0xE. -/
theorem Row.decodes_nineToE {r : Row} {w : Word} (hr : r ∈ rowsNineToE) (h : r.covers w = true) :
    ∃ i, decodeWord w = .ok i ∧ i.row = r := by
  have htable : ∀ r ∈ rowsNineToE, r ∈ opcodeTable := by decide
  have hm := Row.major_of_covers (htable r hr) h
  simp only [rowsNineToE, List.mem_cons, List.not_mem_nil, or_false] at hr
  rcases hr with rfl | rfl | rfl | rfl | rfl | rfl | rfl
  · exact ⟨_, (decodeWord_major9 hm).trans (if_pos (Row.n_of_covers (by decide) h)), rfl⟩
  · exact ⟨_, decodeWord_majorA hm, rfl⟩
  · exact ⟨_, decodeWord_majorB hm, rfl⟩
  · exact ⟨_, decodeWord_majorC hm, rfl⟩
  · exact ⟨_, decodeWord_majorD hm, rfl⟩
  all_goals
    have hkk := Row.kk_of_covers (by decide) h
    rw [decodeWord_majorE hm, decodeE, hkk]
    exact ⟨_, rfl, rfl⟩

/-- The same for major opcode 0xF, whose rows fix the low byte. -/
theorem Row.decodes_f {r : Row} {w : Word} (hr : r ∈ rowsF) (h : r.covers w = true) :
    ∃ i, decodeWord w = .ok i ∧ i.row = r := by
  have hrow : ∀ r ∈ rowsF, r ∈ opcodeTable ∧ r.pattern.major = 0xF#4 ∧ r.mask.kk = BitVec.allOnes 8 := by decide
  obtain ⟨htable, hmajor, hmask⟩ := hrow r hr
  have hkk := Row.kk_of_covers hmask h
  rw [decodeWord_majorF ((Row.major_of_covers htable h).trans hmajor), decodeF, hkk]
  simp only [rowsF, List.mem_cons, List.not_mem_nil, or_false] at hr
  rcases hr with rfl | rfl | rfl | rfl | rfl | rfl | rfl | rfl | rfl
  all_goals exact ⟨_, rfl, rfl⟩

theorem Row.decodes_of_covers {r : Row} {w : Word} (hr : r ∈ opcodeTable) (h : r.covers w = true) :
    ∃ i, decodeWord w = .ok i ∧ i.row = r := by
  simp only [opcodeTable, List.mem_append] at hr
  rcases hr with hr | hr | hr | hr
  · exact Row.decodes_controlAndImmediate hr h
  · exact Row.decodes_eight hr h
  · exact Row.decodes_nineToE hr h
  · exact Row.decodes_f hr h

/-- A decoded word is its instruction's encoding, which carries the digits of the instruction's row. -/
theorem row_covers_of_decodeWord {w : Word} {i : Instr} (h : decodeWord w = .ok i) : i.row.covers w = true := by
  rw [Row.covers_iff, ← Machine.encodeOfDecodeIsIdentity w i h]
  exact (Machine.rowDigits i).1

/-- The decoder is a function, so two rows that cover one word are the row of the one instruction it is. -/
theorem Row.eq_of_covers_both {r r' : Row} {w : Word} (hr : r ∈ opcodeTable) (hr' : r' ∈ opcodeTable)
    (h : r.covers w = true) (h' : r'.covers w = true) : r = r' := by
  obtain ⟨i, hi, rfl⟩ := Row.decodes_of_covers hr h
  obtain ⟨i', hi', rfl⟩ := Row.decodes_of_covers hr' h'
  rw [Except.ok.inj (hi.symm.trans hi')]

theorem decodeWord_ok_or_unknownOpcode (w : Word) :
    (∃ i, decodeWord w = .ok i) ∨ decodeWord w = .error (.unknownOpcode w) := by
  cases h : decodeWord w with
  | ok i => exact .inl ⟨i, rfl⟩
  | error r => exact .inr (congrArg _ (reject_eq h))

/-- Settles O3: a decoded word carries its own row's digits, a covered word decodes into the covering row, and the
decoder's one answer leaves no second row. -/
theorem decodingIsExactMatchOfTheTable : Obligations.DecodingIsExactMatchOfTheTable :=
  ⟨fun _ _ => row_covers_of_decodeWord, fun _ _ => Row.decodes_of_covers, fun _ _ _ => Row.eq_of_covers_both,
    decodeWord_ok_or_unknownOpcode⟩

/-- Settles O4: the decoder evaluated at the eleven words. -/
theorem writtenOutWordsDecode : Obligations.WrittenOutWordsDecode := by
  unfold Obligations.WrittenOutWordsDecode
  decide

end Sys2Proof
end

section
/-! SUPPORT. The statements of 41_control_flow.md on the indexed jump, on call and return and on the skips by registers,
and those of 45_keypad_timers.md on the skips by keys. -/

namespace Sys2Proof.Machine

/-! ### Frames of single writes -/

theorem UnchangedExcept.mono {l l' : List Elem} {s t : State} (h : UnchangedExcept l s t) (hl : l ⊆ l') :
    UnchangedExcept l' s t := fun e he => h e fun hmem => he (hl hmem)

/-- Taking a fault touches no other element (60_exceptions.md R292). -/
theorem State.raise_unchangedExcept (s : State) (c : FaultCode) : UnchangedExcept [.fault] s (s.raise c) := by
  intro e he
  cases e
  case fault => exact absurd (List.mem_singleton_self _) he
  all_goals simp [SameElem]

/-- An instruction that raises answers its fault and changes nothing else. -/
theorem answers_fault {i : Instr} {s : State} {c : FaultCode} (hc : c ≠ .none) (h : faultOf s i = c) :
    Answers (exec i s) fun t => t.fault = c ∧ UnchangedExcept [.fault] s t := by
  subst h
  exact ⟨_, exec_of_fault hc, s.raise_fault _, s.raise_unchangedExcept _⟩

/-! ### What the instructions answer -/

theorem exec_jpV0 (nnn : Addr12) (s : State) : exec (.jpV0 nnn) s = .next (s.setPc (s.jumpV0Target nnn)) := rfl

theorem exec_seReg (x y : Reg) (s : State) : exec (.seReg x y) s = .next (s.skipIf (s.getV x == s.getV y)) := rfl

theorem exec_sneReg (x y : Reg) (s : State) : exec (.sneReg x y) s = .next (s.skipIf (s.getV x != s.getV y)) := rfl

theorem exec_skp (x : Reg) (s : State) : exec (.skp x) s = .next (s.skipIf (s.keyPressed (s.getV x))) := rfl

theorem exec_sknp (x : Reg) (s : State) : exec (.sknp x) s = .next (s.skipIf (!s.keyPressed (s.getV x))) := rfl

/-- A call with a free slot (41_control_flow.md R153). -/
theorem exec_call_of_lt {nnn : Addr12} {s : State} (h : s.sp.val < 16) :
    exec (.call nnn) s = .next (((s.setSlot ⟨s.sp.val, h⟩ s.pc).setSp ⟨s.sp.val + 1, by omega⟩).setPc (zext16 nnn)) :=
  dif_neg (Nat.ne_of_lt h)

/-- A return with a used slot, the topmost being slot k (41_control_flow.md R151). -/
theorem exec_ret_of_eq_succ {s : State} {k : Fin 16} (h : s.sp.val = k.val + 1) :
    exec .ret s = .next (((s.setSp k.castSucc).setPc s.stack[k]).advance 2) := by
  have hne : s.sp.val ≠ 0 := by omega
  have hk : s.sp.val - 1 = k.val := by omega
  rw [show exec .ret s = execRet s from rfl, execRet, dif_neg hne]
  simp only [State.setSp_stack, hk]
  rfl

/-- The sum fits in 16 bits: at most 0x0FFF + 0xFF (41_control_flow.md R157). -/
theorem toNat_jumpV0Target (s : State) (nnn : Addr12) :
    (s.jumpV0Target nnn).toNat = nnn.toNat + (s.getV 0).toNat := by
  have hv : ((s.getV 0).setWidth 16).toNat = (s.getV 0).toNat := BitVec.toNat_setWidth_of_le (by decide)
  have hnnn := nnn.isLt
  have hlt := (s.getV 0).isLt
  rw [State.jumpV0Target, BitVec.toNat_add, toNat_zext16, hv, Nat.mod_eq_of_lt (by omega)]

/-! ### The obligations on jump, call and return -/

/-- Settles O27: the one write of `PC` that the jump is, and the frame of that write. -/
theorem jpV0AddsV0Unreduced : Obligations.JpV0AddsV0Unreduced :=
  fun nnn s => ⟨_, exec_jpV0 nnn s, toNat_jumpV0Target s nnn, s.setPc_unchangedExcept _⟩

/-- Settles O28: with a free slot the three writes of the call, with a full stack the raised fault. -/
theorem callPushesItsOwnAddress : Obligations.CallPushesItsOwnAddress := by
  intro nnn s
  refine ⟨fun h => ?free, fun h => answers_fault (by decide) (if_pos h)⟩
  case free =>
    have hexec := exec_call_of_lt (nnn := nnn) h
    have hfault : faultOf s (.call nnn) = .none := if_neg (Nat.ne_of_lt h)
    refine ⟨_, hexec, toNat_zext16 nnn, rfl, by simp, fun k hk => ?_,
      (exec_unchangedExcept_mayWrite hfault hexec).mono (by simp [mayWrite])⟩
    simp [Ne.symm hk]

/-- Settles O29: with a used slot the writes of the return, with an empty stack the raised fault. -/
theorem retContinuesAfterTheCall : Obligations.RetContinuesAfterTheCall :=
  fun s => ⟨fun k hk =>
    have hfault : faultOf s .ret = .none := if_neg (by omega)
    ⟨_, exec_ret_of_eq_succ hk, rfl, rfl,
      (exec_unchangedExcept_mayWrite hfault (exec_ret_of_eq_succ hk)).mono (by decide)⟩,
    fun h => answers_fault (by decide) (if_pos h)⟩

/-- Settles O30: the slot the return pops is the one the call filled with its own address. -/
theorem retUndoesCall : Obligations.RetUndoesCall := by
  intro nnn s t u h ht hstack hsp
  obtain rfl := Host.Outcome.next.inj ((exec_call_of_lt h).symm.trans ht)
  have hu : u.sp.val = (⟨s.sp.val, h⟩ : Fin 16).val + 1 := by rw [hsp]; rfl
  obtain ⟨r, hr, hpc, hval, hframe⟩ := (retContinuesAfterTheCall u).1 _ hu
  refine ⟨r, hr, ?_, Fin.ext hval, hframe⟩
  rw [hpc, hstack]
  simp

/-! ### The obligations on the skips -/

/-- Settles O32: both instructions are skips, one on the equality test and one on its negation; equal numbers name equal
registers. -/
theorem skipsOnRegisterCompare : Obligations.SkipsOnRegisterCompare := by
  intro x y s
  have heq : x = y → s.getV x = s.getV y := congrArg _
  refine ⟨decodeWord_formatXYN_seReg x y, decodeWord_formatXYN_sneReg x y, ?se, ?sne⟩
  case se =>
    obtain ⟨t, ht, htaken, hnot, hframe⟩ := answers_skipIf (exec_seReg x y s) beq_iff_eq beq_eq_false_iff_ne
    exact ⟨t, ht, htaken, hnot, fun h => htaken (heq h), hframe⟩
  case sne =>
    obtain ⟨t, ht, htaken, hnot, hframe⟩ := answers_skipIf (exec_sneReg x y s) bne_iff_ne bne_eq_false_iff_eq
    exact ⟨t, ht, htaken, hnot, fun h => hnot (heq h), hframe⟩

/-- The key test in the words of 45_keypad_timers.md R241: the whole byte names a key, and that key is pressed. -/
theorem keyPressed_iff_exists (s : State) (b : Byte) :
    s.keyPressed b = true ↔ ∃ k : Key, k.val = b.toNat ∧ s.getKey k = true := by
  rw [State.keyPressed_iff]
  constructor
  · exact fun ⟨h, hk⟩ => ⟨⟨b.toNat, h⟩, rfl, hk⟩
  · rintro ⟨⟨_, h⟩, rfl, hk⟩
    exact ⟨h, hk⟩

/-- Settles O33: both instructions are skips, one on the key test and one on its negation. -/
theorem skipsOnKeyState : Obligations.SkipsOnKeyState := by
  intro x s pressed
  have hpressed : s.keyPressed (s.getV x) = true ↔ pressed := keyPressed_iff_exists s (s.getV x)
  have hnot : s.keyPressed (s.getV x) = false ↔ ¬pressed := by rw [← hpressed, Bool.not_eq_true]
  exact ⟨answers_skipIf (exec_skp x s) hpressed hnot,
    answers_skipIf (exec_sknp x s) (Bool.not_eq_true' _ ▸ hnot) (Bool.not_eq_false' _ ▸ hpressed)⟩

end Sys2Proof.Machine
end

section
/-! SUPPORT. The statements of 40_cycle.md: what one cycle does, kind by kind, and what it leaves unchanged. -/

namespace Sys2Proof.Machine

open State

/-! ### Frames of the parts of a cycle -/

theorem State.setOpcode_unchangedExcept (s : State) (w : Word) : UnchangedExcept [.opcode] s (s.setOpcode w) := by
  intro e he
  cases e
  case opcode => exact absurd (List.mem_singleton_self _) he
  all_goals simp [SameElem]

theorem State.setV_unchangedExcept (s : State) (x : Reg) (b : Byte) : UnchangedExcept [.v] s (s.setV x b) := by
  intro e he
  cases e
  case v => exact absurd (List.mem_singleton_self _) he
  all_goals simp [SameElem]

theorem State.setWaiting_unchangedExcept (s : State) (b : Bool) : UnchangedExcept [.waiting] s (s.setWaiting b) := by
  intro e he
  cases e
  case waiting => exact absurd (List.mem_singleton_self _) he
  all_goals simp [SameElem]

theorem State.nextDraw_unchangedExcept (s : State) : UnchangedExcept [.draws] s s.nextDraw := by
  intro e he
  cases e
  case draws => exact absurd (List.mem_singleton_self _) he
  all_goals simp [SameElem]

theorem State.pulse_unchangedExcept (s : State) (v : Event) : UnchangedExcept [.events] s (s.pulse v) := by
  intro e he
  cases e
  case events => exact absurd (List.mem_singleton_self _) he
  all_goals simp [SameElem]

theorem State.resolveKeyWait_unchangedExcept (s : State) (k : Key) :
    UnchangedExcept [.v, .waiting, .pc] s (s.resolveKeyWait k) :=
  ((s.setV_unchangedExcept _ _).trans (setWaiting_unchangedExcept _ false)).trans (advance_unchangedExcept _ 2)

theorem State.timerTick_unchangedExcept (s : State) : UnchangedExcept [.dt, .st, .events] s s.timerTick := by
  intro e he
  cases e
  case dt | st | events => exact absurd (by decide) he
  all_goals simp [SameElem]

theorem State.endCycle_unchangedExcept (s0 s : State) : UnchangedExcept [.runMode] s (s0.endCycle s) := by
  intro e he
  cases e
  case runMode => exact absurd (List.mem_singleton_self _) he
  all_goals simp [SameElem]

/-! ### The key-wait service ends the wait -/

@[simp] theorem State.getV_resolveKeyWait (s : State) (k : Key) (y : Reg) :
    (s.resolveKeyWait k).getV y = if y = s.waitReg then BitVec.ofNat 8 k.val else s.getV y :=
  s.getV_setV s.waitReg _ y

@[simp] theorem State.resolveKeyWait_waiting (s : State) (k : Key) : (s.resolveKeyWait k).waiting = false := rfl
@[simp] theorem State.resolveKeyWait_pc (s : State) (k : Key) : (s.resolveKeyWait k).pc = s.pc + 2 := rfl
@[simp] theorem State.resolveKeyWait_opcode (s : State) (k : Key) : (s.resolveKeyWait k).opcode = s.opcode := rfl
@[simp] theorem State.resolveKeyWait_draws (s : State) (k : Key) : (s.resolveKeyWait k).draws = s.draws := rfl
@[simp] theorem State.resolveKeyWait_runMode (s : State) (k : Key) : (s.resolveKeyWait k).runMode = s.runMode := rfl

/-- The key number is stored in full: it fits in a byte. -/
theorem State.toNat_getV_resolveKeyWait (s : State) (k : Key) :
    ((s.resolveKeyWait k).getV s.waitReg).toNat = k.val := by
  rw [getV_resolveKeyWait, if_pos rfl, BitVec.toNat_ofNat]; omega

/-! ### A step, kind by kind -/

theorem step_of_gatesOpen_eq_false {s : State} (hg : s.gatesOpen = false) : step s = .next s := runCycle_of_gate hg

theorem step_of_fetchWord_eq_none {s : State} (hg : s.gatesOpen = true) (hw : s.fetchWord = none) :
    step s = .next (s.endCycle (s.raise .addressOutOfRange)) := by
  rw [step, runCycle_of_open hg]; simp [cycleBody, hw]

theorem step_of_waiting {s : State} {w : Word} (hg : s.gatesOpen = true) (hw : s.fetchWord = some w)
    (hwait : s.waiting = true) : step s = .next (s.endCycle (s.setOpcode w).keyWaitService) := by
  rw [step, runCycle_of_open hg]; simp [cycleBody, hw, hwait]

theorem step_of_executingWord {s : State} {w : Word} (h : s.executingWord = some w) :
    step s = mapNext s.endCycle (mapNext tickUnlessFaulted (executeWord w (s.setOpcode w))) := by
  obtain ⟨hg, hwait, hw⟩ := executingWord_eq_some.1 h
  rw [step, runCycle_of_open hg]; simp [cycleBody, hw, hwait]

theorem executeWord_of_ok {w : Word} {i : Instr} (h : decodeWord w = .ok i) (s : State) :
    executeWord w s = exec i s := by
  simp [executeWord, h]

theorem executeWord_of_error {w : Word} {r : Reject} (h : decodeWord w = .error r) (s : State) :
    executeWord w s = execUnknown w s := by
  simp [executeWord, h]

theorem gatesOpen_of_ne_paused {s : State} (hf : s.fault = .none) (hm : s.runMode ≠ .paused) : s.gatesOpen = true :=
  (gatesOpen_iff s).2 ⟨hf, hm⟩

theorem executingWord_of_ne_paused {s : State} {w : Word} (hf : s.fault = .none) (hm : s.runMode ≠ .paused)
    (hwait : s.waiting = false) (hw : s.fetchWord = some w) : s.executingWord = some w :=
  executingWord_eq_some.2 ⟨gatesOpen_of_ne_paused hf hm, hwait, hw⟩

/-- Settles O5: the branch of a cycle that passes the gates and awaits no key, by what the word decodes to. -/
theorem stepPerformsTheDecodedInstruction : Obligations.StepPerformsTheDecodedInstruction := by
  intro s w hf hm hwait hw
  have hstep := step_of_executingWord (executingWord_of_ne_paused hf hm hwait hw)
  exact ⟨fun i hd => executeWord_of_ok hd _ ▸ hstep, fun r hd => executeWord_of_error hd _ ▸ hstep⟩

/-- Settles O6: the two bytes the fetch reads, combined, and its bound. -/
theorem fetchIsBigEndianAtAnyAddress : Obligations.FetchIsBigEndianAtAnyAddress :=
  fun s => ⟨fun h => ⟨_, fetchWord_eq_some h, wordOfBytes_toNat _ _⟩, (fetchWord_eq_none_iff s).2⟩

/-! ### Runs -/

/-- A run begins with one step, for any machine behind the host's interface. -/
theorem run_succ_of_core_step {M : Host.Core} {s t : M.State} (h : M.step s = .next t) (n : Nat) :
    M.run (n + 1) s = M.run n t := by
  rw [Host.Core.run, h]

theorem run_succ_of_step {s t : State} (h : step s = .next t) (n : Nat) : core.run (n + 1) s = core.run n t :=
  run_succ_of_core_step (M := core) h n

theorem run_of_step_eq_self {s : State} (h : step s = .next s) (n : Nat) : core.run n s = .next s := by
  induction n with
  | zero => rfl
  | succ n ih => exact (run_succ_of_step h n).trans ih

theorem gatesOpen_of_fault {s : State} (h : s.fault ≠ .none) : s.gatesOpen = false := by
  simp [gatesOpen, h]

/-- Settles O7: a latched fault shuts the gate, and a step that changes nothing can be repeated. -/
theorem latchedFaultHaltsTheCore : Obligations.LatchedFaultHaltsTheCore :=
  fun _ n h => run_of_step_eq_self (step_of_gatesOpen_eq_false (gatesOpen_of_fault h)) n

/-! ### The run mode -/

/-- A cycle that passes the gates ends with the pause gate's write of the run mode and with no other. -/
theorem step_eq_endCycle {s : State} (hg : s.gatesOpen = true) :
    ∃ u, step s = .next (s.endCycle u) ∧ u.runMode = s.runMode := by
  rcases step_cases s with ⟨hc, -⟩ | ⟨-, -, ht⟩ | ⟨w, -, -, -, -, ht⟩ | ⟨w, k, -, -, -, -, ⟨ht, -⟩ | ⟨ht, -⟩⟩ |
    ⟨w, i, u, -, -, -, -, hcompletes, ht⟩ | ⟨w, -, -, ht⟩ | ⟨w, i, -, -, -, ht⟩
  case inl => exact absurd (hc.symm.trans hg) Bool.false_ne_true
  case inr.inr.inr.inr.inl => exact ⟨_, ht, (timerTick_runMode u).trans hcompletes.runMode⟩
  all_goals exact ⟨_, ht, by simp⟩

/-- Settles O8: a paused core is skipped; otherwise the end of the cycle decides the run mode. -/
theorem runModeGatesTheCycle : Obligations.RunModeGatesTheCycle := by
  intro s hf
  by_cases hm : s.runMode = .paused
  · have hg : s.gatesOpen = false := by simp [gatesOpen, hm]
    exact ⟨s, step_of_gatesOpen_eq_false hg, fun _ => rfl, id, fun _ => hm⟩
  · obtain ⟨u, ht, hu⟩ := step_eq_endCycle (gatesOpen_of_ne_paused hf hm)
    exact ⟨_, ht, fun h => absurd h hm, fun h => by simp [h, hu], fun h => by simp [h]⟩

/-! ### The obligations on the single kinds of cycle -/

/-- Settles O10: the fetch fault is one `raise`, before anything is executed. -/
theorem unfetchablePcLatchesAddressOutOfRange : Obligations.UnfetchablePcLatchesAddressOutOfRange := by
  intro s hf hm hpc
  have hw : s.fetchWord = none := (fetchWord_eq_none_iff s).2 (Nat.succ_le_succ hpc)
  exact ⟨_, step_of_fetchWord_eq_none (gatesOpen_of_ne_paused hf hm) hw, by simp,
    (s.raise_unchangedExcept _).trans (s.endCycle_unchangedExcept _)⟩

/-- Settles O11: the idle service changes nothing after the fetch. -/
theorem keyWaitWithoutKeyOnlyRefetches : Obligations.KeyWaitWithoutKeyOnlyRefetches := by
  intro s w hf hm hwait hw hkeys
  have hstep := step_of_waiting (gatesOpen_of_ne_paused hf hm) hw hwait
  rw [keyWaitService_idle (s := s.setOpcode w) hkeys] at hstep
  exact ⟨_, hstep, by simp, (s.setOpcode_unchangedExcept w).trans (s.endCycle_unchangedExcept _)⟩

/-- What the end of a key-wait by key k leaves, from a state `u` that differs from `s` in `opcode` and `draws` alone. -/
theorem endCycle_resolveKeyWait {s u : State} {w : Word} (hframe : UnchangedExcept [.opcode, .draws] s u)
    (hop : u.opcode = w) (k : Key) :
    (∀ y, y ≠ s.waitReg → (s.endCycle (u.resolveKeyWait k)).getV y = s.getV y) ∧
    (s.endCycle (u.resolveKeyWait k)).waiting = false ∧ (s.endCycle (u.resolveKeyWait k)).pc = s.pc + 2 ∧
    (s.endCycle (u.resolveKeyWait k)).opcode = w ∧
    UnchangedExcept [.v, .waiting, .pc, .opcode, .runMode, .draws] s (s.endCycle (u.resolveKeyWait k)) := by
  have hreg : u.waitReg = s.waitReg := hframe .waitReg (by decide)
  have hv : ∀ y, u.getV y = s.getV y := hframe .v (by decide)
  have hpc : u.pc = s.pc := hframe .pc (by decide)
  exact ⟨fun y hy => by simp [hreg, hv, hy], by simp, by simp [hpc], by simp [hop],
    ((hframe.trans (u.resolveKeyWait_unchangedExcept k)).trans (s.endCycle_unchangedExcept _)).mono (by decide)⟩

/-- Settles O12: the service ends the wait with a pressed key; that a draw was taken means that a second key was
pressed. -/
theorem keyWaitStoresAPressedKey : Obligations.KeyWaitStoresAPressedKey := by
  intro s w hf hm hwait hw hkey
  have hstep := step_of_waiting (gatesOpen_of_ne_paused hf hm) hw hwait
  obtain ⟨k, hk, ⟨hserve, honly⟩ | ⟨hserve, j, hne, hj⟩⟩ := keyWaitService_resolves (s := s.setOpcode w) hkey
  -- Exactly one key is pressed.
  · rw [hserve] at hstep
    refine ⟨_, hstep, ⟨k, hk, (endCycle_getV _ _ _).symm ▸ toNat_getV_resolveKeyWait _ k, fun k0 h0 => ?_⟩,
      endCycle_resolveKeyWait ((s.setOpcode_unchangedExcept w).mono (by decide)) rfl k⟩
    exact ⟨(h0 k).1 hk, by simp⟩
  -- Several keys are pressed.
  · rw [hserve] at hstep
    refine ⟨_, hstep, ⟨k, hk, (endCycle_getV _ _ _).symm ▸ toNat_getV_resolveKeyWait _ k, fun k0 h0 => ?_⟩,
      endCycle_resolveKeyWait ((s.setOpcode_unchangedExcept w).trans (nextDraw_unchangedExcept _)) rfl k⟩
    exact absurd (((h0 j).1 hj).trans ((h0 k).1 hk).symm) hne

theorem step_of_unknownOpcode {s : State} {w : Word} {r : Reject} (hf : s.fault = .none)
    (hx : s.executingWord = some w) (hd : decodeWord w = .error r) :
    step s = .next (s.endCycle (((s.setOpcode w).pulse (.unknownOpcode w)).advance 2).timerTick) := by
  have hf' : (((s.setOpcode w).pulse (.unknownOpcode w)).advance 2).fault = .none := hf
  rw [step_of_executingWord hx, executeWord_of_error hd, execUnknown, mapNext_next, mapNext_next,
    tickUnlessFaulted_of_none hf']

theorem unknownOpcode_unchangedExcept (s : State) (w : Word) :
    UnchangedExcept [.pc, .opcode, .dt, .st, .events, .runMode] s
      (s.endCycle (((s.setOpcode w).pulse (.unknownOpcode w)).advance 2).timerTick) :=
  ((((s.setOpcode_unchangedExcept w).trans (pulse_unchangedExcept _ _)).trans (advance_unchangedExcept _ 2)).trans
    (timerTick_unchangedExcept _)).trans (s.endCycle_unchangedExcept _) |>.mono (by decide)

/-- Settles O13: the pulse, the step of `PC` and the tick, in this order. -/
theorem unknownOpcodeIsAReportedNoOp : Obligations.UnknownOpcodeIsAReportedNoOp := by
  intro s w hf hm hwait hw hno
  have hd := (decodeWord_ok_or_unknownOpcode w).resolve_left fun ⟨i, hi⟩ => hno i hi
  refine ⟨_, step_of_unknownOpcode hf (executingWord_of_ne_paused hf hm hwait hw) hd, by simp, by simp, by simp,
    by simp, ?events, unknownOpcode_unchangedExcept s w⟩
  case events =>
    rw [endCycle_events, timerTick_events]
    change (if s.st = 1 then .tone :: .unknownOpcode w :: s.events else .unknownOpcode w :: s.events) = _
    split_ifs <;> rfl

/-- Settles O14: after a rule that raised nothing the cycle is the tick, then its end. -/
theorem timersTickAfterTheInstruction : Obligations.TimersTickAfterTheInstruction := by
  intro s u w i hx hd hu hf
  have hstep := step_of_executingWord hx
  rw [executeWord_of_ok hd, hu, mapNext_next, mapNext_next, tickUnlessFaulted_of_none hf] at hstep
  exact ⟨_, hstep, by simp, by simp, by simp, u.timerTick_unchangedExcept.trans (s.endCycle_unchangedExcept _)⟩

/-! ### The table of kinds -/

/-- The frame of a cycle whose instruction completes. -/
theorem completed_unchangedExcept {s u : State} {w : Word} {i : Instr} (h : Completes i (s.setOpcode w) u) :
    UnchangedExcept (mayWrite i ++ [.opcode, .dt, .st, .events, .runMode]) s (s.endCycle u.timerTick) := by
  refine ((((s.setOpcode_unchangedExcept w).trans h.frame).trans u.timerTick_unchangedExcept).trans
    (s.endCycle_unchangedExcept _)).mono fun e he => ?_
  simp only [List.mem_append, List.mem_cons, List.not_mem_nil, or_false] at he ⊢
  tauto

/-- Settles O15: the inversion of a step, each case with the frames of its parts. -/
theorem everyCycleIsOneOfTheKinds : Obligations.EveryCycleIsOneOfTheKinds := by
  intro s
  rcases step_cases s with ⟨hg, ht⟩ | ⟨hg, hw, ht⟩ | ⟨w, hg, hw, hwait, hkeys, ht⟩ |
    ⟨w, k, hg, hw, hwait, hk, ⟨ht, -⟩ | ⟨ht, -⟩⟩ | ⟨w, i, u, hx, hd, -, -, hcompletes, ht⟩ | ⟨w, hx, hd, ht⟩ |
    ⟨w, i, hx, hd, hraises, ht⟩
  -- A skipped cycle.
  case inl =>
    by_cases hf : s.fault = .none
    · have hm : s.runMode = .paused := by
        by_contra hm
        exact Bool.false_ne_true (hg.symm.trans (gatesOpen_of_ne_paused hf hm))
      exact ⟨s, ht, .inr (.inl ⟨hf, hm, rfl⟩)⟩
    · exact ⟨s, ht, .inl ⟨hf, rfl⟩⟩
  -- The fetch fault.
  case inr.inl =>
    exact ⟨_, ht, .inr (.inr (.inl ⟨hg, hw, by simp,
      (s.raise_unchangedExcept _).trans (s.endCycle_unchangedExcept _)⟩))⟩
  -- The key-wait without a key.
  case inr.inr.inl =>
    exact ⟨_, ht, .inr (.inr (.inr ⟨w, hg, hw, by simp, .inl ⟨hwait, hkeys,
      (s.setOpcode_unchangedExcept w).trans (s.endCycle_unchangedExcept _)⟩⟩))⟩
  -- The key-wait ended by the one pressed key.
  case inr.inr.inr.inl.inl =>
    obtain ⟨-, hdone, -, hop, hframe⟩ :=
      endCycle_resolveKeyWait ((s.setOpcode_unchangedExcept w).mono (by decide)) rfl k
    exact ⟨_, ht, .inr (.inr (.inr ⟨w, hg, hw, hop, .inr (.inl ⟨hwait, ⟨k, hk⟩, hdone, hframe⟩)⟩))⟩
  -- The key-wait ended by one of several pressed keys.
  case inr.inr.inr.inl.inr =>
    obtain ⟨-, hdone, -, hop, hframe⟩ :=
      endCycle_resolveKeyWait ((s.setOpcode_unchangedExcept w).trans (nextDraw_unchangedExcept _)) rfl k
    exact ⟨_, ht, .inr (.inr (.inr ⟨w, hg, hw, hop, .inr (.inl ⟨hwait, ⟨k, hk⟩, hdone, hframe⟩)⟩))⟩
  -- An instruction that completes.
  case inr.inr.inr.inr.inl =>
    obtain ⟨hg, hwait, hw⟩ := executingWord_eq_some.1 hx
    have hf : u.fault = .none := hcompletes.fault.trans ((gatesOpen_iff s).1 hg).1
    exact ⟨_, ht, .inr (.inr (.inr ⟨w, hg, hw, by simp [hcompletes.opcode], .inr (.inr (.inl ⟨i, hwait, hd,
      by simp [hf], completed_unchangedExcept hcompletes⟩))⟩))⟩
  -- An unknown opcode.
  case inr.inr.inr.inr.inr.inl =>
    obtain ⟨hg, hwait, hw⟩ := executingWord_eq_some.1 hx
    exact ⟨_, ht, .inr (.inr (.inr ⟨w, hg, hw, by simp, .inr (.inr (.inr (.inl ⟨hwait, hd, by simp,
      unknownOpcode_unchangedExcept s w⟩)))⟩))⟩
  -- An instruction that raises.
  case inr.inr.inr.inr.inr.inr =>
    obtain ⟨hg, hwait, hw⟩ := executingWord_eq_some.1 hx
    exact ⟨_, ht, .inr (.inr (.inr ⟨w, hg, hw, by simp, .inr (.inr (.inr (.inr ⟨i, hwait, hd, by simpa using hraises,
      ((s.setOpcode_unchangedExcept w).trans (raise_unchangedExcept _ _)).trans (s.endCycle_unchangedExcept _)
        |>.mono (by decide)⟩)))⟩))⟩

end Sys2Proof.Machine
end

section
/-! SUPPORT. The statements of 10_state.md section 9 and 60_exceptions.md section 2: which cycles change an element, and
which latch a fault. -/

namespace Sys2Proof.Machine

open State

/-! ### The writers of an element -/

/-- The elements that a cycle can write without executing an instruction that may write them (40_cycle.md section 5). -/
def cycleWrites : List Elem := [.v, .pc, .dt, .st, .waiting, .runMode, .opcode, .fault, .draws, .events]

theorem SameElem.refl (s : State) (e : Elem) : SameElem s s e := by
  cases e
  case v | stack | mem | key => exact fun _ => rfl
  case disp => exact fun _ _ => rfl
  all_goals exact Eq.refl _

theorem executing_of_gatesOpen {s : State} {w : Word} {i : Instr} (hg : s.gatesOpen = true) (hw : s.fetchWord = some w)
    (hwait : s.waiting = false) (hd : decodeWord w = .ok i) : s.executing = some i :=
  executing_eq_some.2 ⟨w, executingWord_eq_some.2 ⟨hg, hwait, hw⟩, hd⟩

/-- Any other element changes only in a cycle that executes one of its writers. -/
theorem step_sameElem_or_executing {s t : State} (ht : step s = .next t) {e : Elem} (he : e ∉ cycleWrites) :
    SameElem s t e ∨ ∃ i, s.executing = some i ∧ e ∈ mayWrite i := by
  have hout : ∀ l : List Elem, l ⊆ cycleWrites → e ∉ l := fun l hl h => he (hl h)
  obtain ⟨t', ht', hkind⟩ := everyCycleIsOneOfTheKinds s
  obtain rfl := Host.Outcome.next.inj (ht.symm.trans ht')
  rcases hkind with ⟨-, rfl⟩ | ⟨-, -, rfl⟩ | ⟨-, -, -, hframe⟩ | ⟨w, hg, hw, -, ⟨-, -, hframe⟩ | ⟨-, -, -, hframe⟩ |
    ⟨i, hwait, hd, -, hframe⟩ | ⟨-, -, -, hframe⟩ | ⟨i, -, -, -, hframe⟩⟩
  case inl | inr.inl => exact .inl (SameElem.refl _ _)
  case inr.inr.inr.inr.inr.inl =>
    by_cases hi : e ∈ mayWrite i
    · exact .inr ⟨i, executing_of_gatesOpen hg hw hwait hd, hi⟩
    · exact .inl (hframe e fun h => (List.mem_append.1 h).elim hi (hout _ (by decide)))
  all_goals exact .inl (hframe e (hout _ (by decide)))

theorem disp_mem_mayWrite_iff (i : Instr) : .disp ∈ mayWrite i ↔ i = .cls ∨ ∃ x y n, i = .drw x y n := by
  cases i <;> simp [mayWrite]

theorem mem_mem_mayWrite_iff (i : Instr) : .mem ∈ mayWrite i ↔ ∃ x, i = .ldB x ∨ i = .ldMemVx x := by
  cases i <;> simp [mayWrite]

theorem i_mem_mayWrite_iff (i : Instr) :
    .i ∈ mayWrite i ↔ (∃ nnn, i = .ldI nnn) ∨ ∃ x, i = .addI x ∨ i = .ldF x := by
  cases i <;> simp [mayWrite]

theorem stack_mem_mayWrite_iff (i : Instr) : .stack ∈ mayWrite i ↔ ∃ nnn, i = .call nnn := by
  cases i <;> simp [mayWrite]

theorem sp_mem_mayWrite_iff (i : Instr) : .sp ∈ mayWrite i ↔ i = .ret ∨ ∃ nnn, i = .call nnn := by
  cases i <;> simp [mayWrite]

theorem dt_mem_mayWrite_iff (i : Instr) : .dt ∈ mayWrite i ↔ ∃ x, i = .ldDtVx x := by
  cases i <;> simp [mayWrite]

theorem st_mem_mayWrite_iff (i : Instr) : .st ∈ mayWrite i ↔ ∃ x, i = .ldStVx x := by
  cases i <;> simp [mayWrite]

theorem key_notMem_mayWrite (i : Instr) : .key ∉ mayWrite i := by
  cases i <;> simp [mayWrite]

theorem lastKey_notMem_mayWrite (i : Instr) : .lastKey ∉ mayWrite i := by
  cases i <;> simp [mayWrite]

/-! ### The display, memory, `I`, the stack and the keypad -/

/-- A display is its pixels. -/
theorem Display.ext_pixel {d d' : Display} (h : ∀ r c, d'.pixel r c = d.pixel r c) : d' = d := by
  refine Vector.ext fun r hr => BitVec.eq_of_getLsbD_eq fun c hc => ?_
  exact h ⟨r, hr⟩ ⟨c, hc⟩

/-- Settles O20: the display is its pixels, and 00E0 and Dxyn are the two instructions that may write them. -/
theorem onlyClsAndDrwChangeTheDisplay : Obligations.OnlyClsAndDrwChangeTheDisplay := by
  intro s t ht hne
  obtain hsame | ⟨i, hi, hwrites⟩ := step_sameElem_or_executing ht (e := .disp) (by decide)
  · exact absurd (Display.ext_pixel hsame) hne
  · rcases (disp_mem_mayWrite_iff i).1 hwrites with rfl | ⟨x, y, n, rfl⟩
    · exact .inl hi
    · exact .inr ⟨x, y, n, hi⟩

/-- Settles O21: the instructions that may write memory, and those that may write `I`. -/
theorem onlyTheirWritersChangeMemoryAndI : Obligations.OnlyTheirWritersChangeMemoryAndI := by
  refine fun s t ht => ⟨fun ⟨a, ha⟩ => ?mem, fun hne => ?i⟩
  case mem =>
    obtain hsame | ⟨i, hi, hwrites⟩ := step_sameElem_or_executing ht (e := .mem) (by decide)
    · exact absurd (hsame a) ha
    · obtain ⟨x, rfl | rfl⟩ := (mem_mem_mayWrite_iff i).1 hwrites
      · exact ⟨x, .inl hi⟩
      · exact ⟨x, .inr hi⟩
  case i =>
    obtain hsame | ⟨i, hi, hwrites⟩ := step_sameElem_or_executing ht (e := .i) (by decide)
    · exact absurd hsame hne
    · rcases (i_mem_mayWrite_iff i).1 hwrites with ⟨nnn, rfl⟩ | ⟨x, rfl | rfl⟩
      · exact .inl ⟨nnn, hi⟩
      · exact .inr ⟨x, .inl hi⟩
      · exact .inr ⟨x, .inr hi⟩

/-- Settles O22: 2nnn alone may write the stack, 2nnn and 00EE may write `SP`, and no instruction may write the keypad
latch. -/
theorem onlyCallAndRetTouchTheStack : Obligations.OnlyCallAndRetTouchTheStack := by
  refine fun s t ht => ⟨fun hne => ?stack, fun hne => ?sp, ?key, ?lastKey⟩
  case stack =>
    obtain hsame | ⟨i, hi, hwrites⟩ := step_sameElem_or_executing ht (e := .stack) (by decide)
    · exact absurd (Vector.ext fun k hk => hsame ⟨k, hk⟩) hne
    · obtain ⟨nnn, rfl⟩ := (stack_mem_mayWrite_iff i).1 hwrites
      exact ⟨nnn, hi⟩
  case sp =>
    obtain hsame | ⟨i, hi, hwrites⟩ := step_sameElem_or_executing ht (e := .sp) (by decide)
    · exact absurd hsame hne
    · rcases (sp_mem_mayWrite_iff i).1 hwrites with rfl | ⟨nnn, rfl⟩
      · exact .inl hi
      · exact .inr ⟨nnn, hi⟩
  case key =>
    obtain hsame | ⟨i, -, hwrites⟩ := step_sameElem_or_executing ht (e := .key) (by decide)
    · exact Vector.ext fun k hk => hsame ⟨k, hk⟩
    · exact absurd hwrites (key_notMem_mayWrite i)
  case lastKey =>
    obtain hsame | ⟨i, -, hwrites⟩ := step_sameElem_or_executing ht (e := .lastKey) (by decide)
    · exact hsame
    · exact absurd hwrites (lastKey_notMem_mayWrite i)

/-! ### The timers -/

@[simp] theorem State.resolveKeyWait_dt (s : State) (k : Key) : (s.resolveKeyWait k).dt = s.dt := rfl
@[simp] theorem State.resolveKeyWait_st (s : State) (k : Key) : (s.resolveKeyWait k).st = s.st := rfl

/-- A timer that an instruction may not write is after the tick at most what it was before the instruction. -/
theorem toNat_tickDown_le_of_notMem {i : Instr} {s u : State} (hframe : UnchangedExcept (mayWrite i) s u) :
    (.dt ∉ mayWrite i → (tickDown u.dt).toNat ≤ s.dt.toNat) ∧
      (.st ∉ mayWrite i → (tickDown u.st).toNat ≤ s.st.toNat) := by
  refine ⟨fun hi => ?_, fun hi => ?_⟩
  · have hdt : u.dt = s.dt := hframe .dt hi
    simp [hdt]
  · have hst : u.st = s.st := hframe .st hi
    simp [hst]

/-- A timer that rises in a cycle is one that the executed instruction may write. -/
theorem step_timers_le {s t : State} (ht : step s = .next t) :
    (t.dt.toNat ≤ s.dt.toNat ∨ ∃ i, s.executing = some i ∧ .dt ∈ mayWrite i) ∧
      (t.st.toNat ≤ s.st.toNat ∨ ∃ i, s.executing = some i ∧ .st ∈ mayWrite i) := by
  rcases step_cases s with ⟨-, ht'⟩ | ⟨-, -, ht'⟩ | ⟨w, -, -, -, -, ht'⟩ | ⟨w, k, -, -, -, -, ⟨ht', -⟩ | ⟨ht', -⟩⟩ |
    ⟨w, i, u, hx, hd, -, -, hcompletes, ht'⟩ | ⟨w, -, -, ht'⟩ | ⟨w, i, -, -, -, ht'⟩
  all_goals obtain rfl := Host.Outcome.next.inj (ht.symm.trans ht')
  case inr.inr.inr.inr.inl =>
    have hi : s.executing = some i := executing_eq_some.2 ⟨w, hx, hd⟩
    obtain ⟨hdt, hst⟩ := toNat_tickDown_le_of_notMem hcompletes.frame
    refine ⟨(em (.dt ∈ mayWrite i)).symm.imp (fun h => ?_) fun h => ⟨i, hi, h⟩,
      (em (.st ∈ mayWrite i)).symm.imp (fun h => ?_) fun h => ⟨i, hi, h⟩⟩
    · rw [endCycle_dt, timerTick_dt]; exact hdt h
    · rw [endCycle_st, timerTick_st]; exact hst h
  all_goals exact ⟨.inl (by simp), .inl (by simp)⟩

/-- Settles O23: Fx15 alone may write `DT`, Fx18 alone may write `ST`. -/
theorem timersRiseOnlyByTheirLoads : Obligations.TimersRiseOnlyByTheirLoads := by
  intro s t ht
  obtain ⟨hdt, hst⟩ := step_timers_le ht
  refine ⟨fun hrise => ?_, fun hrise => ?_⟩
  · obtain ⟨i, hi, hwrites⟩ := hdt.resolve_left (Nat.not_le_of_lt hrise)
    obtain ⟨x, rfl⟩ := (dt_mem_mayWrite_iff i).1 hwrites
    exact ⟨x, hi⟩
  · obtain ⟨i, hi, hwrites⟩ := hst.resolve_left (Nat.not_le_of_lt hrise)
    obtain ⟨x, rfl⟩ := (st_mem_mayWrite_iff i).1 hwrites
    exact ⟨x, hi⟩

/-! ### Faults -/

/-- The fault that the next cycle of a machine without a latched fault latches: of the fetch, or of the instruction it
executes (60_exceptions.md section 2). -/
def cycleFault (s : State) : FaultCode :=
  if s.gatesOpen = true ∧ s.fetchWord = none then .addressOutOfRange
  else (s.executing.map (faultOf s)).getD .none

/-- The latch of `opcode` plays no part in the fault of an instruction. -/
@[simp] theorem faultOf_setOpcode (s : State) (w : Word) (i : Instr) : faultOf (s.setOpcode w) i = faultOf s i := by
  cases i <;> rfl

theorem cycleFault_of_executing {s : State} {i : Instr} (h : s.executing = some i) : cycleFault s = faultOf s i := by
  obtain ⟨w, hx, -⟩ := executing_eq_some.1 h
  obtain ⟨-, -, hw⟩ := executingWord_eq_some.1 hx
  simp [cycleFault, hw, h]

theorem cycleFault_of_executing_eq_none {s : State} (hfetch : ¬(s.gatesOpen = true ∧ s.fetchWord = none))
    (h : s.executing = none) : cycleFault s = .none := by
  rw [cycleFault, if_neg hfetch, h]; rfl

theorem executing_eq_none_of_executingWord {s : State} (h : s.executingWord = none) : s.executing = none := by
  rw [executing, h]; rfl

theorem cycleFault_eq_iff {s : State} {c : FaultCode} (hc : c ≠ .none) :
    cycleFault s = c ↔ (c = .addressOutOfRange ∧ s.gatesOpen = true ∧ s.fetchWord = none) ∨
      ∃ i, s.executing = some i ∧ faultOf s i = c := by
  cases hx : s.executing with
  | some i =>
    obtain ⟨w, hw, -⟩ := executing_eq_some.1 hx
    obtain ⟨-, -, hw⟩ := executingWord_eq_some.1 hw
    rw [cycleFault_of_executing hx]
    simp [hw]
  | none =>
    by_cases hfetch : s.gatesOpen = true ∧ s.fetchWord = none
    · rw [cycleFault, if_pos hfetch]
      simp [hfetch, eq_comm]
    · rw [cycleFault_of_executing_eq_none hfetch hx]
      simp [hfetch, hc.symm]

@[simp] theorem State.resolveKeyWait_fault (s : State) (k : Key) : (s.resolveKeyWait k).fault = s.fault := rfl

/-- A cycle latches this fault. -/
theorem step_fault {s t : State} (hf : s.fault = .none) (ht : step s = .next t) : t.fault = cycleFault s := by
  rcases step_cases s with ⟨hg, ht'⟩ | ⟨hg, hw, ht'⟩ | ⟨w, -, hw, hwait, -, ht'⟩ |
    ⟨w, k, -, hw, hwait, -, ⟨ht', -⟩ | ⟨ht', -⟩⟩ | ⟨w, i, u, hx, hd, hno, -, hcompletes, ht'⟩ | ⟨w, hx, hd, ht'⟩ |
    ⟨w, i, hx, hd, -, ht'⟩
  all_goals obtain rfl := Host.Outcome.next.inj (ht.symm.trans ht')
  case inl =>
    have hnone : t.executing = none := executing_eq_none_of_executingWord (by simp [executingWord, hg])
    rw [hf, cycleFault_of_executing_eq_none (by simp [hg]) hnone]
  case inr.inl => simp [cycleFault, hg, hw]
  case inr.inr.inr.inr.inl =>
    rw [cycleFault_of_executing (executing_eq_some.2 ⟨w, hx, hd⟩), ← faultOf_setOpcode s w i, hno]
    simp [hcompletes.fault, hf]
  case inr.inr.inr.inr.inr.inl =>
    have hnone : s.executing = none := by rw [executing, hx, Option.bind_some, hd]; rfl
    obtain ⟨-, -, hw⟩ := executingWord_eq_some.1 hx
    rw [cycleFault_of_executing_eq_none (by simp [hw]) hnone]
    simp [hf]
  case inr.inr.inr.inr.inr.inr =>
    rw [cycleFault_of_executing (executing_eq_some.2 ⟨w, hx, hd⟩)]
    simp
  all_goals
    have hnone : s.executing = none := executing_eq_none_of_executingWord (by simp [executingWord, hwait])
    rw [cycleFault_of_executing_eq_none (by simp [hw]) hnone]
    simp [hf]

theorem faultOf_eq_stackOverflow_iff {s : State} {i : Instr} :
    faultOf s i = .stackOverflow ↔ (∃ nnn, i = .call nnn) ∧ s.sp.val = 16 := by
  cases i <;> simp [faultOf, ite_eq_iff]

theorem faultOf_eq_stackUnderflow_iff {s : State} {i : Instr} :
    faultOf s i = .stackUnderflow ↔ i = .ret ∧ s.sp.val = 0 := by
  cases i <;> simp [faultOf, ite_eq_iff]

theorem faultOf_eq_addressOutOfRange_iff {s : State} {i : Instr} :
    faultOf s i = .addressOutOfRange ↔ (∃ x y n, i = .drw x y n ∧ n ≠ 0 ∧ 4096 ≤ s.i.toNat + n.toNat - 1) ∨
      ∃ x, i = .ldVxMem x ∧ 4096 ≤ s.i.toNat + x.val := by
  cases i <;> simp [faultOf, ite_eq_iff, spriteOutOfRange_iff, dataAddr]

/-- A cycle that latches a fault has changed nothing else but `opcode` and the run mode. -/
theorem step_fault_unchangedExcept {s t : State} (hf : s.fault = .none) (ht : step s = .next t)
    (htf : t.fault ≠ .none) : UnchangedExcept [.fault, .opcode, .runMode] s t := by
  obtain ⟨t', ht', hkind⟩ := everyCycleIsOneOfTheKinds s
  obtain rfl := Host.Outcome.next.inj (ht.symm.trans ht')
  rcases hkind with ⟨hlatched, -⟩ | ⟨-, -, rfl⟩ | ⟨-, -, -, hframe⟩ | ⟨w, -, -, -, ⟨-, -, hframe⟩ | ⟨-, -, -, hframe⟩ |
    ⟨i, -, -, hnone, -⟩ | ⟨-, -, -, hframe⟩ | ⟨i, -, -, -, hframe⟩⟩
  case inl => exact absurd hf hlatched
  case inr.inl => exact absurd hf htf
  case inr.inr.inl => exact hframe.mono (by decide)
  case inr.inr.inr.inr.inr.inl => exact absurd hnone htf
  case inr.inr.inr.inr.inr.inr.inr => exact hframe
  -- The kinds whose frame keeps `fault` at its value before the cycle.
  all_goals exact absurd (Eq.trans (hframe .fault (by decide)) hf) htf

theorem step_opcode_of_fetchWord_eq_none {s t : State} (ht : step s = .next t) (hw : s.fetchWord = none) :
    t.opcode = s.opcode := by
  cases hg : s.gatesOpen with
  | false => rw [Host.Outcome.next.inj (ht.symm.trans (step_of_gatesOpen_eq_false hg))]
  | true =>
    rw [Host.Outcome.next.inj (ht.symm.trans (step_of_fetchWord_eq_none hg hw)), endCycle_opcode, raise_opcode]

theorem nibble_ne_zero_iff (n : Nibble) : n ≠ 0 ↔ 0 < n.toNat := by
  rw [Nat.pos_iff_ne_zero, ne_eq, ne_eq, ← BitVec.toNat_inj]; rfl

/-- Settles O24: the fault a cycle latches is that of the fetch or that of the instruction it executes, read off
instruction by instruction. -/
theorem faultsAreExactlyTheListedOnesAndPrecise : Obligations.FaultsAreExactlyTheListedOnesAndPrecise := by
  intro s hf
  obtain ⟨t, ht, -⟩ := everyCycleIsOneOfTheKinds s
  refine ⟨t, ht, ?overflow, ?underflow, ?range, step_fault_unchangedExcept hf ht, step_opcode_of_fetchWord_eq_none ht⟩
  all_goals rw [step_fault hf ht, cycleFault_eq_iff (by decide)]
  case overflow =>
    simp only [faultOf_eq_stackOverflow_iff, reduceCtorEq, false_and, false_or]
    constructor
    · rintro ⟨_, hi, ⟨nnn, rfl⟩, hsp⟩; exact ⟨⟨nnn, hi⟩, hsp⟩
    · rintro ⟨⟨nnn, hi⟩, hsp⟩; exact ⟨_, hi, ⟨nnn, rfl⟩, hsp⟩
  case underflow =>
    simp only [faultOf_eq_stackUnderflow_iff, reduceCtorEq, false_and, false_or]
    constructor
    · rintro ⟨_, hi, rfl, hsp⟩; exact ⟨hi, hsp⟩
    · rintro ⟨hi, hsp⟩; exact ⟨_, hi, rfl, hsp⟩
  case range =>
    simp only [faultOf_eq_addressOutOfRange_iff, true_and, nibble_ne_zero_iff]
    refine or_congr Iff.rfl ⟨?_, ?_⟩
    · rintro ⟨_, hi, ⟨x, y, n, rfl, hrange⟩ | ⟨x, rfl, hrange⟩⟩
      · exact .inl ⟨x, y, n, hi, hrange⟩
      · exact .inr ⟨x, hi, hrange⟩
    · rintro (⟨x, y, n, hi, hrange⟩ | ⟨x, hi, hrange⟩)
      · exact ⟨_, hi, .inl ⟨x, y, n, rfl, hrange⟩⟩
      · exact ⟨_, hi, .inr ⟨x, rfl, hrange⟩⟩

end Sys2Proof.Machine
end

section
/-! SUPPORT. The invariant of 10_state.md section 9: power-on establishes it, every cycle and every host transaction
keeps it. -/

namespace Sys2Proof.Machine

open State

/-! ### The invariant and the elements it speaks of -/

theorem State.StackHoldsCallAddresses.congr {s t : State} (h : s.StackHoldsCallAddresses)
    (hstack : SameElem s t .stack) (hsp : SameElem s t .sp) : t.StackHoldsCallAddresses := by
  intro k hk
  have hsp : t.sp = s.sp := hsp
  rw [hstack k]
  exact h k (hsp ▸ hk)

/-- Equal memory, equal slots and an equal `SP` carry the invariant over. -/
theorem State.Inv.congr {s t : State} (h : s.Inv) (hmem : t.mem = s.mem) (hstack : SameElem s t .stack)
    (hsp : SameElem s t .sp) : t.Inv :=
  ⟨hmem ▸ h.memory, h.stack.congr hstack hsp⟩

/-! ### Cycles -/

@[simp] theorem State.resolveKeyWait_mem (s : State) (k : Key) : (s.resolveKeyWait k).mem = s.mem := rfl
@[simp] theorem State.resolveKeyWait_stack (s : State) (k : Key) : (s.resolveKeyWait k).stack = s.stack := rfl
@[simp] theorem State.resolveKeyWait_sp (s : State) (k : Key) : (s.resolveKeyWait k).sp = s.sp := rfl

/-- The slot a call fills holds the call's own address. -/
theorem exec_call_stackHoldsCallAddresses {nnn : Addr12} {s t : State} (hpc : s.pc.toNat ≤ 0x0FFE)
    (h : s.StackHoldsCallAddresses) (hsp : s.sp.val < 16) (ht : exec (.call nnn) s = .next t) :
    t.StackHoldsCallAddresses := by
  obtain ⟨u, hu, -, hval, hslot, hothers, -⟩ := (callPushesItsOwnAddress nnn s).1 hsp
  obtain rfl := Host.Outcome.next.inj (hu.symm.trans ht)
  intro k hk
  by_cases hk' : k.val = s.sp.val
  · obtain rfl : k = ⟨s.sp.val, hsp⟩ := Fin.ext hk'
    exact hslot ▸ hpc
  · rw [hothers k hk']
    exact h k (by omega)

/-- The slots a return leaves in use were in use before it. -/
theorem exec_ret_stackHoldsCallAddresses {s t : State} (h : s.StackHoldsCallAddresses) (hsp : s.sp.val ≠ 0)
    (ht : exec .ret s = .next t) : t.StackHoldsCallAddresses := by
  have hlt := s.sp.isLt
  obtain ⟨u, hu, -, hval, hframe⟩ := (retContinuesAfterTheCall s).1 ⟨s.sp.val - 1, by omega⟩ (by simp only; omega)
  obtain rfl := Host.Outcome.next.inj (hu.symm.trans ht)
  intro k hk
  rw [hframe .stack (by decide) k]
  exact h k (by simp only at hval; omega)

theorem exec_stackHoldsCallAddresses {i : Instr} {s t : State} (hpc : s.pc.toNat ≤ 0x0FFE)
    (h : s.StackHoldsCallAddresses) (hf : faultOf s i = .none) (ht : exec i s = .next t) :
    t.StackHoldsCallAddresses := by
  have hframe := exec_unchangedExcept_mayWrite hf ht
  have hlt := s.sp.isLt
  cases i with
  | call nnn =>
    have hsp : s.sp.val ≠ 16 := fun hsp => absurd ((if_pos hsp).symm.trans hf) (by decide)
    exact exec_call_stackHoldsCallAddresses hpc h (by omega) ht
  | ret =>
    have hsp : s.sp.val ≠ 0 := fun hsp => absurd ((if_pos hsp).symm.trans hf) (by decide)
    exact exec_ret_stackHoldsCallAddresses h hsp ht
  | _ => exact h.congr (hframe .stack (by simp [mayWrite])) (hframe .sp (by simp [mayWrite]))

/-- Settles O16: only a completed instruction writes memory or the stack; it keeps the canonical form, and a call pushes
an address at which the fetch has just succeeded. -/
theorem stepKeepsTheInvariant : Obligations.StepKeepsTheInvariant := by
  intro s t hs ht
  rcases step_cases s with ⟨-, ht'⟩ | ⟨-, -, ht'⟩ | ⟨w, -, -, -, -, ht'⟩ | ⟨w, k, -, -, -, -, ⟨ht', -⟩ | ⟨ht', -⟩⟩ |
    ⟨w, i, u, hx, -, hno, hu, hcompletes, ht'⟩ | ⟨w, -, -, ht'⟩ | ⟨w, i, -, -, -, ht'⟩
  all_goals obtain rfl := Host.Outcome.next.inj (ht.symm.trans ht')
  case inr.inr.inr.inr.inl =>
    obtain ⟨-, -, hw⟩ := executingWord_eq_some.1 hx
    have hpc : (s.setOpcode w).pc.toNat ≤ 0x0FFE := by
      have hlt : s.pc.toNat + 1 < 4096 := pc_lt_of_fetchWord hw
      rw [setOpcode_pc]; omega
    have huInv : u.Inv := ⟨hcompletes.wf hs.memory, exec_stackHoldsCallAddresses hpc hs.stack hno hu⟩
    exact huInv.congr (by simp) (fun k => by simp) (by simp [SameElem])
  -- The other cycles write neither memory nor the stack.
  all_goals exact hs.congr (by simp) (fun k => by simp) (by simp [SameElem])

/-! ### Power-on and host transactions -/

/-- Settles O17: nothing is listed and no slot is in use. -/
theorem resetStateMeetsTheInvariant : Obligations.ResetStateMeetsTheInvariant :=
  ⟨Memory.wf_nil, fun k hk => absurd hk (Nat.not_lt_zero k.val)⟩

theorem State.Inv.setRunMode {s : State} (h : s.Inv) (m : RunMode) : (s.setRunMode m).Inv :=
  h.congr rfl (fun _ => rfl) rfl

theorem State.Inv.pause {s : State} (h : s.Inv) : s.pause.Inv := by
  unfold State.pause
  split
  · exact h.setRunMode .paused
  · exact h

theorem State.Inv.singleStep {s : State} (h : s.Inv) : s.singleStep.Inv := by
  unfold State.singleStep
  split
  · exact h.setRunMode .singleStepPending
  · exact h

/-- Settles O18: `load` writes memory through `writeBytes`, `reset` starts anew, and no other transaction writes memory
or the stack. -/
theorem hostTransactionsKeepTheInvariant : Obligations.HostTransactionsKeepTheInvariant := by
  intro m s hs
  cases m with
  | load bytes => exact ⟨Memory.wf_writeBytes _ _ hs.memory, hs.stack⟩
  | reset => exact resetStateMeetsTheInvariant.congr rfl (fun _ => rfl) rfl
  | keyDown k | keyUp k | resume | ackRedraw => exact hs.congr rfl (fun _ => rfl) rfl
  | pause => exact hs.pause
  | singleStep => exact hs.singleStep

/-! ### Schedules -/

theorem transact_answers_inv (x : Transaction) {s : State} (hs : s.Inv) : Answers (transact x s) State.Inv := by
  cases x with
  | runCycle =>
    obtain ⟨t, ht, -⟩ := everyCycleIsOneOfTheKinds s
    exact ⟨t, ht, stepKeepsTheInvariant s t hs ht⟩
  | host m => exact ⟨_, rfl, hostTransactionsKeepTheInvariant m s hs⟩

theorem transactAll_answers_inv (ts : List Transaction) {s : State} (hs : s.Inv) :
    Answers (transactAll ts s) State.Inv := by
  induction ts generalizing s with
  | nil => exact ⟨s, rfl, hs⟩
  | cons x ts ih =>
    obtain ⟨t, ht, htInv⟩ := transact_answers_inv x hs
    rw [transactAll, ht]
    exact ih htInv

/-- Settles O19: every transaction answers a state of the invariant, so the schedule goes on from one to the next. -/
theorem everyScheduleReachesAStateOfTheInvariant : Obligations.EveryScheduleReachesAStateOfTheInvariant :=
  fun ts => transactAll_answers_inv ts resetStateMeetsTheInvariant

end Sys2Proof.Machine
end

section
/-! SUPPORT. What no rule of the core reads: `redraw`, `last_key` (10_state.md section 5) and, within a cycle,
`run_mode` (60_exceptions.md section 9). -/

namespace Sys2Proof.Machine

open State

/-- The state with other values in the three elements that no rule of a cycle reads. -/
def State.setUnread (s : State) (b : Bool) (k : Key) (m : RunMode) : State :=
  ((s.setRedraw b).setLastKey k).setRunMode m

/-- A function on states commutes with writes of the unread elements, but for a value of `redraw` that it may set
itself: the form in which a meaning does not read them. -/
def KeepsUnread (f : State → StepOutcome) (s : State) : Prop :=
  ∃ g : Bool → Bool, ∀ b k m, f (s.setUnread b k m) = mapNext (·.setUnread (g b) k m) (f s)

/-! ### Instructions -/

theorem faultOf_setUnread (s : State) (b : Bool) (k : Key) (m : RunMode) (i : Instr) :
    faultOf (s.setUnread b k m) i = faultOf s i := by
  cases i <;> rfl

theorem loadBlock_setUnread (s : State) (b : Bool) (k : Key) (m : RunMode) (ks : List Reg) :
    (s.setUnread b k m).loadBlock ks = (s.loadBlock ks).setUnread b k m := by
  induction ks generalizing s with
  | nil => rfl
  | cons x ks ih => exact ih (s.setV x (s.mem.read (s.dataAddr x)))

theorem exec_ldVxMem_of_lt {x : Reg} {s : State} (h : s.dataAddr x < Config.memSize) :
    exec (.ldVxMem x) s = .next ((s.loadBlock (regsUpTo x)).advance 2) :=
  if_neg (Nat.not_le_of_lt h)

theorem faultOf_ret_eq_none_iff {s : State} : faultOf s .ret = .none ↔ s.sp.val ≠ 0 := by simp [faultOf]

theorem faultOf_call_eq_none_iff {s : State} {nnn : Addr12} : faultOf s (.call nnn) = .none ↔ s.sp.val ≠ 16 := by
  simp [faultOf]

theorem faultOf_ldVxMem_eq_none_iff {s : State} {x : Reg} :
    faultOf s (.ldVxMem x) = .none ↔ s.dataAddr x < Config.memSize := by
  simp [faultOf]

/-- 00E0 and Dxyn set `redraw` whatever it was; every other instruction leaves it. -/
theorem exec_keepsUnread (i : Instr) (s : State) : KeepsUnread (exec i) s := by
  by_cases hf : faultOf s i = .none
  · cases i with
    | cls => exact ⟨fun _ => true, fun _ _ _ => rfl⟩
    | drw x y n =>
      have hrange := faultOf_drw_eq_none_iff.1 hf
      refine ⟨fun _ => true, fun b k m => ?_⟩
      rw [exec_drw_of_no_fault hrange, exec_drw_of_no_fault (s := s.setUnread b k m) hrange]
      rfl
    | call nnn =>
      have hsp : s.sp.val < 16 := by have := s.sp.isLt; have := faultOf_call_eq_none_iff.1 hf; omega
      refine ⟨id, fun b k m => ?_⟩
      rw [exec_call_of_lt hsp, exec_call_of_lt (s := s.setUnread b k m) hsp]
      rfl
    | ret =>
      obtain ⟨n, hn⟩ := Nat.exists_eq_succ_of_ne_zero (faultOf_ret_eq_none_iff.1 hf)
      have hlt : n < 16 := by have := s.sp.isLt; omega
      refine ⟨id, fun b k m => ?_⟩
      rw [exec_ret_of_eq_succ (k := ⟨n, hlt⟩) hn, exec_ret_of_eq_succ (s := s.setUnread b k m) (k := ⟨n, hlt⟩) hn]
      rfl
    | ldVxMem x =>
      have hrange := faultOf_ldVxMem_eq_none_iff.1 hf
      refine ⟨id, fun b k m => ?_⟩
      rw [exec_ldVxMem_of_lt hrange, exec_ldVxMem_of_lt (s := s.setUnread b k m) hrange, loadBlock_setUnread]
      rfl
    | _ => exact ⟨id, fun _ _ _ => rfl⟩
  · refine ⟨id, fun b k m => ?_⟩
    rw [exec_of_fault hf, exec_of_fault ((faultOf_setUnread s b k m i).symm ▸ hf), faultOf_setUnread]
    rfl

/-! ### Cycles -/

theorem executeWord_keepsUnread (w : Word) (s : State) : KeepsUnread (executeWord w) s := by
  cases hd : decodeWord w with
  | ok i =>
    obtain ⟨g, hg⟩ := exec_keepsUnread i s
    exact ⟨g, fun b k m => by rw [executeWord_of_ok hd, executeWord_of_ok hd, hg]⟩
  | error r => exact ⟨id, fun b k m => by rw [executeWord_of_error hd, executeWord_of_error hd]; rfl⟩

theorem keyWaitService_setUnread (s : State) (b : Bool) (k : Key) (m : RunMode) :
    (s.setUnread b k m).keyWaitService = s.keyWaitService.setUnread b k m := by
  have hkeys : (s.setUnread b k m).pressedKeys = s.pressedKeys := rfl
  unfold keyWaitService
  rw [hkeys]
  split <;> rfl

theorem tickUnlessFaulted_setUnread (s : State) (b : Bool) (k : Key) (m : RunMode) :
    (s.setUnread b k m).tickUnlessFaulted = s.tickUnlessFaulted.setUnread b k m := by
  by_cases hf : s.fault = .none
  · rw [tickUnlessFaulted_of_none hf, tickUnlessFaulted_of_none (s := s.setUnread b k m) hf, timerTick_eq, timerTick_eq]
    rfl
  · rw [tickUnlessFaulted_of_ne hf, tickUnlessFaulted_of_ne (s := s.setUnread b k m) hf]

theorem mapNext_comm {f g g' : State → State} (h : ∀ s, f (g s) = g' (f s)) (o : StepOutcome) :
    mapNext f (mapNext g o) = mapNext g' (mapNext f o) := by
  cases o with
  | next s => exact congrArg Host.Outcome.next (h s)
  | fault r | refused r => rfl

theorem cycleBody_of_fetchWord_eq_none {s : State} (hw : s.fetchWord = none) :
    cycleBody s = .next (s.raise .addressOutOfRange) := by
  simp [cycleBody, hw]

theorem cycleBody_of_waiting {s : State} {w : Word} (hw : s.fetchWord = some w) (hwait : s.waiting = true) :
    cycleBody s = .next (s.setOpcode w).keyWaitService := by
  simp [cycleBody, hw, hwait]

theorem cycleBody_of_not_waiting {s : State} {w : Word} (hw : s.fetchWord = some w) (hwait : s.waiting = false) :
    cycleBody s = mapNext tickUnlessFaulted (executeWord w (s.setOpcode w)) := by
  simp [cycleBody, hw, hwait]

theorem cycleBody_keepsUnread (s : State) : KeepsUnread cycleBody s := by
  cases hw : s.fetchWord with
  | none =>
    refine ⟨id, fun b k m => ?_⟩
    rw [cycleBody_of_fetchWord_eq_none hw, cycleBody_of_fetchWord_eq_none (s := s.setUnread b k m) hw]
    rfl
  | some w =>
    cases hwait : s.waiting with
    | true =>
      refine ⟨id, fun b k m => ?_⟩
      rw [cycleBody_of_waiting hw hwait, cycleBody_of_waiting (s := s.setUnread b k m) hw hwait]
      exact congrArg Host.Outcome.next (keyWaitService_setUnread (s.setOpcode w) b k m)
    | false =>
      obtain ⟨g, hg⟩ := executeWord_keepsUnread w (s.setOpcode w)
      refine ⟨g, fun b k m => ?_⟩
      rw [cycleBody_of_not_waiting hw hwait, cycleBody_of_not_waiting (s := s.setUnread b k m) hw hwait]
      exact (congrArg _ (hg b k m)).trans (mapNext_comm (fun u => tickUnlessFaulted_setUnread u (g b) k m) _)

/-! ### The obligations -/

/-- The body of a cycle is the same under every run mode, up to that mode. -/
theorem cycleBody_setRunMode (s : State) (m m' : RunMode) :
    mapNext (·.setRunMode m') (cycleBody (s.setRunMode m)) = mapNext (·.setRunMode m') (cycleBody s) := by
  obtain ⟨g, hg⟩ := cycleBody_keepsUnread s
  have hm : cycleBody (s.setRunMode m) = mapNext (·.setUnread (g s.redraw) s.lastKey m) (cycleBody s) :=
    hg s.redraw s.lastKey m
  have hself : cycleBody s = mapNext (·.setUnread (g s.redraw) s.lastKey s.runMode) (cycleBody s) :=
    hg s.redraw s.lastKey s.runMode
  rw [hm]
  conv_rhs => rw [hself]
  cases cycleBody s <;> rfl

/-- Settles O9: under both run modes the gates let the same body through. -/
theorem steppedCycleIsARunningCycle : Obligations.SteppedCycleIsARunningCycle := by
  intro s hf hr
  have hstepped : step (s.setRunMode .singleStepPending) =
      mapNext (·.setRunMode .paused) (cycleBody (s.setRunMode .singleStepPending)) := by simp [step, runCycle, hf]
  have hrunning : step s = cycleBody s := by simp [step, runCycle, hf, hr]
  rw [hstepped, hrunning, cycleBody_setRunMode]

theorem State.setLastKey_unchangedExcept (s : State) (k : Key) : UnchangedExcept [.lastKey] s (s.setLastKey k) := by
  intro e he
  cases e
  case lastKey => exact absurd (List.mem_singleton_self _) he
  all_goals simp [SameElem]

theorem endCycle_setRedraw_setLastKey (s0 u : State) (b : Bool) (k : Key) :
    s0.endCycle ((u.setRedraw b).setLastKey k) = ((s0.endCycle u).setRedraw b).setLastKey k := by
  rw [endCycle_eq, endCycle_eq]; rfl

theorem cycleBody_runMode {s u : State} (hu : cycleBody s = .next u) : u.runMode = s.runMode := by
  obtain ⟨g, hg⟩ := cycleBody_keepsUnread s
  have hself : cycleBody s = mapNext (·.setUnread (g s.redraw) s.lastKey s.runMode) (cycleBody s) :=
    hg s.redraw s.lastKey s.runMode
  rw [hu, mapNext_next] at hself
  have hu' := Host.Outcome.next.inj hself
  exact (congrArg State.runMode hu').trans rfl

/-- A step from a state with other values in `redraw` and `last_key` is the step itself but for these values. -/
theorem step_setRedraw_setLastKey (s : State) (b : Bool) (k : Key) :
    ∃ b', step ((s.setRedraw b).setLastKey k) = mapNext (fun t => (t.setRedraw b').setLastKey k) (step s) := by
  cases hg : s.gatesOpen with
  | false =>
    refine ⟨b, ?_⟩
    rw [step_of_gatesOpen_eq_false hg, step_of_gatesOpen_eq_false (s := (s.setRedraw b).setLastKey k) hg, mapNext_next]
  | true =>
    obtain ⟨g, hbody⟩ := cycleBody_keepsUnread s
    have hstep : step s = mapNext s.endCycle (cycleBody s) := runCycle_of_open hg
    have hstep' : step ((s.setRedraw b).setLastKey k) = mapNext s.endCycle (cycleBody (s.setUnread b k s.runMode)) :=
      runCycle_of_open (s := (s.setRedraw b).setLastKey k) hg
    refine ⟨g b, ?_⟩
    rw [hstep, hstep', hbody]
    cases hu : cycleBody s with
    | next u =>
      have hmode : u.setUnread (g b) k s.runMode = (u.setRedraw (g b)).setLastKey k := by
        rw [← cycleBody_runMode hu]; rfl
      rw [mapNext_next, mapNext_next, mapNext_next, mapNext_next, hmode, endCycle_setRedraw_setLastKey]
    | fault r | refused r => rfl

/-- Settles O25: the values written over `redraw` and `last_key` pass through the step, but for a `redraw` that the step
sets. -/
theorem lastKeyAndRedrawAreNeverRead : Obligations.LastKeyAndRedrawAreNeverRead := by
  intro s t t' k b ht ht'
  obtain ⟨b', hb'⟩ := step_setRedraw_setLastKey s b k
  rw [ht, ht'] at hb'
  obtain rfl := Host.Outcome.next.inj hb'
  exact (t.setRedraw_unchangedExcept b').trans (setLastKey_unchangedExcept _ k)

end Sys2Proof.Machine
end

section
/-! SUPPORT. The statements of 70_reset_and_hazards.md on two runs: the self jump and the empty program. -/

namespace Sys2Proof.Machine

open State

/-! ### Parts of a cycle that change nothing -/

theorem timerTick_of_zero {s : State} (hdt : s.dt = 0) (hst : s.st = 0) : s.timerTick = s := by
  have hdt' : tickDown s.dt = s.dt := by rw [hdt]; rfl
  have hst' : tickDown s.st = s.st := by rw [hst]; rfl
  have hne : s.st ≠ 1 := by rw [hst]; decide
  rw [timerTick_eq, hdt', hst', if_neg hne]

theorem endCycle_of_running {s0 : State} (h : s0.runMode = .running) (s : State) : s0.endCycle s = s := by
  simp [endCycle, h]

/-! ### The self jump -/

/-- Settles O56: the jump writes the `PC` and the fetch the `opcode` that stand there, and the tick of two timers at 0
writes nothing new. -/
theorem selfJumpIsAFixedPoint : Obligations.SelfJumpIsAFixedPoint := by
  intro s nnn n hx hd hpc hdt hst hr
  obtain ⟨hg, -, -⟩ := executingWord_eq_some.1 hx
  have hf : s.fault = .none := ((gatesOpen_iff s).1 hg).1
  have htarget : zext16 nnn = s.pc := BitVec.eq_of_toNat_eq ((toNat_zext16 nnn).trans hpc.symm)
  have hself : (s.setOpcode s.opcode).setPc s.pc = s := rfl
  refine run_of_step_eq_self ?_ n
  rw [step_of_executingWord hx, executeWord_of_ok hd, exec_jp, htarget, hself, mapNext_next, mapNext_next,
    tickUnlessFaulted_of_none hf, timerTick_of_zero hdt hst, endCycle_of_running hr]

/-! ### The empty program -/

/-- The state after n cycles on freshly reset memory. -/
def emptyRun (n : Nat) : State :=
  { State.reset with pc := BitVec.ofNat 16 (0x200 + 2 * n), events := List.replicate n (.unknownOpcode 0x0000) }

theorem toNat_emptyRun_pc {n : Nat} (h : n ≤ 1792) : (emptyRun n).pc.toNat = 0x200 + 2 * n :=
  (BitVec.toNat_ofNat _ _).trans (Nat.mod_eq_of_lt (by omega))

/-- Memory above the font reads 0 after reset (10_state.md R39). -/
theorem read_emptyRun {n a : Nat} (ha : Config.fontSize ≤ a) : (emptyRun n).mem.read a = 0 :=
  if_neg (Nat.not_lt_of_le ha)

theorem fetchWord_emptyRun {n : Nat} (h : n < 1792) : (emptyRun n).fetchWord = some 0x0000 := by
  have hpc := toNat_emptyRun_pc h.le
  have hin : (emptyRun n).pc.toNat + 1 < 4096 := by omega
  have hfont : 80 ≤ (emptyRun n).pc.toNat := by omega
  rw [fetchWord_eq_some hin, read_emptyRun hfont, read_emptyRun (Nat.le_succ_of_le hfont)]
  rfl

/-- Each of these cycles executes the unknown opcode 0x0000 (70_reset_and_hazards.md section 2). -/
theorem step_emptyRun {n : Nat} (h : n < 1792) : step (emptyRun n) = .next (emptyRun (n + 1)) := by
  have hd : decodeWord 0x0000 = .error (.unknownOpcode 0x0000) := by decide
  have hx : (emptyRun n).executingWord = some 0x0000 := executingWord_eq_some.2 ⟨rfl, rfl, fetchWord_emptyRun h⟩
  have hpc : BitVec.ofNat 16 (0x200 + 2 * (n + 1)) = BitVec.ofNat 16 (0x200 + 2 * n) + 2 :=
    BitVec.ofNat_add (0x200 + 2 * n) 2
  rw [step_of_unknownOpcode rfl hx hd, endCycle_of_running rfl, timerTick_of_zero rfl rfl, emptyRun, emptyRun, hpc,
    List.replicate_succ]
  rfl

theorem run_emptyRun {n k : Nat} (h : n + k ≤ 1792) : core.run k (emptyRun n) = .next (emptyRun (n + k)) := by
  induction k generalizing n with
  | zero => rfl
  | succ k ih =>
    rw [run_succ_of_step (step_emptyRun (by omega)), ih (by omega), Nat.succ_add_eq_add_succ]

theorem run_reset {n : Nat} (h : n ≤ 1792) : core.run n State.reset = .next (emptyRun n) := by
  have hrun := run_emptyRun (n := 0) (k := n) (by omega)
  rwa [Nat.zero_add] at hrun

/-- A run can be cut after any number of steps. -/
theorem run_add_of_run {M : Host.Core} {m : Nat} {s t : M.State} (h : M.run m s = .next t) (k : Nat) :
    M.run (m + k) s = M.run k t := by
  induction m generalizing s with
  | zero =>
    obtain rfl : s = t := Host.Outcome.next.inj h
    rw [Nat.zero_add]
  | succ m ih =>
    rw [Nat.succ_add]
    rw [Host.Core.run] at h ⊢
    cases hs : M.step s with
    | next u => rw [hs] at h; exact ih h
    | fault r | refused r => rw [hs] at h; cases h

theorem step_emptyRun_end :
    step (emptyRun 1792) = .next ((emptyRun 1792).endCycle ((emptyRun 1792).raise .addressOutOfRange)) := by
  have hpc := toNat_emptyRun_pc (n := 1792) le_rfl
  have hout : (emptyRun 1792).pc.toNat + 1 ≥ 4096 := by omega
  exact step_of_fetchWord_eq_none rfl ((fetchWord_eq_none_iff _).2 hout)

/-- Settles O57: by induction on the number of cycles the run from reset passes the states `emptyRun n`, at the last of
which no word can be fetched. -/
theorem emptyProgramRunsOffTheEnd : Obligations.EmptyProgramRunsOffTheEnd := by
  refine ⟨fun n hn => ⟨_, run_reset hn, toNat_emptyRun_pc hn, rfl, rfl⟩, ?_⟩
  have hcut : core.run 1793 State.reset = core.run 1 (emptyRun 1792) :=
    run_add_of_run (M := core) (run_reset le_rfl) 1
  refine ⟨_, hcut.trans (run_succ_of_step step_emptyRun_end 0), ?pc, ?fault⟩
  case pc => rw [endCycle_pc, raise_pc, toNat_emptyRun_pc le_rfl]
  case fault => rw [endCycle_fault, raise_fault]

end Sys2Proof.Machine
end

section
/-! SUPPORT. The statements of 42_alu.md on the instructions that write a flag, and on the random draw. -/

namespace Sys2Proof.Machine

open State

/-! ### A flag, then a result -/

/-- An outcome that is a write of VF and then a `loadV`: the result, the flag where it is not overwritten, and nothing
else but `PC` (42_alu.md R170). -/
theorem answers_setV_vf_loadV {s : State} {o : StepOutcome} {x : Reg} {f b : Byte} {result flag : Nat}
    (ho : o = .next ((s.setV vf f).loadV x b)) (hb : b.toNat = result) (hf : f.toNat = flag) :
    Answers o fun t =>
      (t.getV x).toNat = result ∧ (x ≠ vf → (t.getV vf).toNat = flag) ∧ t.pc = s.pc + 2 ∧
      (∀ z, z ≠ x → z ≠ vf → t.getV z = s.getV z) ∧ UnchangedExcept [.v, .pc] s t := by
  refine ⟨_, ho, ?result, fun hx => ?flag, rfl, fun z hz hvf => ?others,
    ((s.setV_unchangedExcept vf f).trans (loadV_unchangedExcept _ x b)).mono (by decide)⟩
  case result => rw [getV_loadV_same, hb]
  case flag => rw [getV_loadV_of_ne _ _ _ hx.symm, getV_setV, if_pos rfl, hf]
  case others => rw [getV_loadV_of_ne _ _ _ hz, getV_setV, if_neg hvf]

/-- An operand read after the write of VF, in numbers. -/
theorem toNat_getV_setV_vf (s : State) (f : Byte) (x : Reg) :
    ((s.setV vf f).getV x).toNat = if x = vf then f.toNat else (s.getV x).toNat := by
  rw [getV_setV, apply_ite BitVec.toNat]

/-! ### What the instructions answer -/

theorem exec_addReg (x y : Reg) (s : State) :
    exec (.addReg x y) s = .next ((s.setV vf (carryFlag (s.getV x) (s.getV y))).loadV x
      (BitVec.ofNat 8 ((s.getV x).toNat + (s.getV y).toNat))) := rfl

theorem exec_sub (x y : Reg) (s : State) :
    exec (.sub x y) s =
      let s1 := s.setV vf (greaterFlag (s.getV x) (s.getV y))
      .next (s1.loadV x (s1.getV x - s1.getV y)) := rfl

theorem exec_subn (x y : Reg) (s : State) :
    exec (.subn x y) s =
      let s1 := s.setV vf (greaterFlag (s.getV y) (s.getV x))
      .next (s1.loadV x (s1.getV y - s1.getV x)) := rfl

theorem exec_shr (x y : Reg) (s : State) :
    exec (.shr x y) s =
      let s1 := s.setV vf (lowBitFlag (s.getV x))
      .next (s1.loadV x (s1.getV x >>> 1)) := rfl

theorem exec_shl (x y : Reg) (s : State) :
    exec (.shl x y) s =
      let s1 := s.setV vf (highBitFlag (s.getV x))
      .next (s1.loadV x (s1.getV x <<< 1)) := rfl

theorem exec_rnd (x : Reg) (kk : Byte) (s : State) :
    exec (.rnd x kk) s = .next (s.nextDraw.loadV x (Config.randomByte s.draws &&& kk)) := rfl

/-! ### The obligations -/

/-- Settles O36: the carry to VF, then the sum formed before. -/
theorem addSetsCarry : Obligations.AddSetsCarry :=
  fun x y s => answers_setV_vf_loadV (exec_addReg x y s) (BitVec.toNat_ofNat _ 8) (toNat_carryFlag _ _)

/-- Settles O37: the flag to VF, then the difference of the registers as they are after that write. -/
theorem subtractionsFlagStrictlyGreater : Obligations.SubtractionsFlagStrictlyGreater := by
  refine fun x y s => ⟨answers_setV_vf_loadV (exec_sub x y s) ?sub (toNat_greaterFlag _ _),
    answers_setV_vf_loadV (exec_subn x y s) ?subn (toNat_greaterFlag _ _)⟩
  all_goals rw [toNat_byte_sub, toNat_getV_setV_vf, toNat_getV_setV_vf, toNat_greaterFlag]

/-- Settles O38: the lost bit to VF, then the shift of Vx as it is after that write. -/
theorem shiftsPutTheLostBitInVF : Obligations.ShiftsPutTheLostBitInVF := by
  refine fun x y s => ⟨answers_setV_vf_loadV (exec_shr x y s) ?shr (toNat_lowBitFlag _),
    answers_setV_vf_loadV (exec_shl x y s) ?shl (toNat_highBitFlag _)⟩
  case shr => rw [BitVec.toNat_ushiftRight, Nat.shiftRight_one, toNat_getV_setV_vf, toNat_lowBitFlag]
  case shl => rw [BitVec.toNat_shiftLeft, Nat.shiftLeft_eq, pow_one, toNat_getV_setV_vf, toNat_highBitFlag]

/-- Settles O39: one draw, then a `loadV` of the drawn byte masked by `kk`. -/
theorem rndIsAMaskedDraw : Obligations.RndIsAMaskedDraw := by
  intro x kk s
  have hsame := getV_loadV_same s.nextDraw x (Config.randomByte s.draws &&& kk)
  refine ⟨_, exec_rnd x kk s, fun b _ => ?bits, fun hkk => ?zero, rfl, rfl, fun z hz => getV_loadV_of_ne _ _ _ hz,
    exec_unchangedExcept_mayWrite (i := .rnd x kk) rfl (exec_rnd x kk s)⟩
  case bits => rw [hsame, BitVec.getLsbD_and]
  case zero => rw [hsame, hkk]; exact BitVec.and_zero

end Sys2Proof.Machine
end

section
/-! SUPPORT. The statements of 43_index_memory.md on the arithmetic of `I` and on the block load. -/

namespace Sys2Proof.Machine

open State

theorem exec_addI (x : Reg) (s : State) :
    exec (.addI x) s = .next ((s.setI (s.i + (s.getV x).setWidth 16)).advance 2) := rfl

theorem exec_ldF (x : Reg) (s : State) : exec (.ldF x) s = .next ((s.setI (glyphAddr (s.getV x))).advance 2) := rfl

/-- The product fits in 16 bits: at most 255 * 5 (43_index_memory.md R203). -/
theorem toNat_glyphAddr (b : Byte) : (glyphAddr b).toNat = b.toNat * 5 := by
  have hlt := b.isLt
  rw [glyphAddr, BitVec.toNat_ofNat, Nat.mod_eq_of_lt (by omega)]

theorem toNat_add_setWidth (a : Word) (b : Byte) : (a + b.setWidth 16).toNat = (a.toNat + b.toNat) % 65536 := by
  rw [BitVec.toNat_add, BitVec.toNat_setWidth_of_le (by decide)]

/-- An outcome that is a write of `I` and a step of `PC`. -/
theorem answers_setI {s : State} {o : StepOutcome} {a : Word} {n : Nat} (ho : o = .next ((s.setI a).advance 2))
    (ha : a.toNat = n) : Answers o fun t => t.i.toNat = n ∧ t.pc = s.pc + 2 ∧ UnchangedExcept [.i, .pc] s t :=
  ⟨_, ho, ha, rfl, (s.setI_unchangedExcept a).trans (advance_unchangedExcept _ 2)⟩

/-- Settles O41: each is one write of `I`, of the reduced sum and of the product. -/
theorem indexArithmetic : Obligations.IndexArithmetic :=
  fun x s => ⟨answers_setI (exec_addI x s) (toNat_add_setWidth _ _), answers_setI (exec_ldF x s) (toNat_glyphAddr _)⟩

/-- Settles O44: where the last address exists the block load, register by register; elsewhere the raised fault. -/
theorem ldVxMemLoadsTheBlock : Obligations.LdVxMemLoadsTheBlock := by
  refine fun x s => ⟨fun h => ?load, fun h => answers_fault (by decide) (if_pos h)⟩
  case load =>
    have hexec := exec_ldVxMem_of_lt (x := x) (s := s) h
    have hframe := exec_unchangedExcept_mayWrite (faultOf_ldVxMem_eq_none_iff.2 h) hexec
    have hv : ∀ k, ((s.loadBlock (regsUpTo x)).advance 2).getV k =
        if k ≤ x then s.mem.read (s.i.toNat + k.val) else s.getV k := by
      intro k
      rw [advance_getV, getV_loadBlock, dataAddr]
      simp only [mem_regsUpTo]
    have hpc : (s.loadBlock (regsUpTo x)).pc = s.pc := by
      obtain ⟨v, hload⟩ := s.loadBlock_eq (regsUpTo x)
      rw [hload]
    exact ⟨_, hexec, fun k hk => (hv k).trans (if_pos hk), fun k hk => (hv k).trans (if_neg (not_le_of_gt hk)),
      congrArg (· + 2) hpc, hframe⟩

end Sys2Proof.Machine
end

section
/-! SUPPORT. The statements of 44_display.md on the drawing of sprites. -/

namespace Sys2Proof.Machine

open State

@[simp] theorem flagByte_true : flagByte true = 1 := rfl
@[simp] theorem flagByte_false : flagByte false = 0 := rfl

/-- The state after a draw within memory (44_display.md R222). -/
def drawn (s : State) (x y : Reg) (n : Nibble) : State :=
  (((s.setDisp (s.blit x y n).disp).setV vf (flagByte (s.blit x y n).collision)).setRedraw true).advance 2

theorem spriteOutOfRange_eq_false {s : State} {n : Nibble} (h : n = 0 ∨ s.i.toNat + n.toNat - 1 < 4096) :
    s.spriteOutOfRange n = false := by
  rw [Bool.eq_false_iff, ne_eq, spriteOutOfRange_iff]
  rintro ⟨hn, hrange⟩
  exact h.elim hn fun hlt => absurd hrange (Nat.not_le_of_lt hlt)

theorem exec_drw {s : State} {n : Nibble} (h : n = 0 ∨ s.i.toNat + n.toNat - 1 < 4096) (x y : Reg) :
    exec (.drw x y n) s = .next (drawn s x y n) :=
  exec_drw_of_no_fault (spriteOutOfRange_eq_false h)

theorem drawn_pixel_of_spriteSets {s : State} {x y : Reg} {n : Nibble} {r : Fin 32} {c : Fin 64}
    (h : SpriteSets s x y n r c) : (drawn s x y n).disp.pixel r c = !s.disp.pixel r c :=
  (s.blit_pixel x y n r c).2 h

theorem drawn_pixel_of_not_spriteSets {s : State} {x y : Reg} {n : Nibble} {r : Fin 32} {c : Fin 64}
    (h : ¬SpriteSets s x y n r c) : (drawn s x y n).disp.pixel r c = s.disp.pixel r c :=
  Bool.not_eq_not.1 fun hflip => h ((s.blit_pixel x y n r c).1 hflip)

theorem drawn_getV (s : State) (x y : Reg) (n : Nibble) (z : Reg) :
    (drawn s x y n).getV z = if z = vf then flagByte (s.blit x y n).collision else s.getV z := by
  simp [drawn]

theorem drawn_getV_vf_eq_one {s : State} {x y : Reg} {n : Nibble}
    (h : ∃ r c, SpriteSets s x y n r c ∧ s.disp.pixel r c = true) : (drawn s x y n).getV vf = 1 := by
  rw [drawn_getV, if_pos rfl, (s.blit_collision x y n).2 h, flagByte_true]

theorem drawn_getV_vf_eq_zero {s : State} {x y : Reg} {n : Nibble}
    (h : ¬∃ r c, SpriteSets s x y n r c ∧ s.disp.pixel r c = true) : (drawn s x y n).getV vf = 0 := by
  rw [drawn_getV, if_pos rfl, Bool.eq_false_iff.2 fun hc => h ((s.blit_collision x y n).1 hc), flagByte_false]

/-- Settles O46: the pixels and the flag of the blit, and the frame of an instruction that raises no fault. -/
theorem drwXorsTheSpriteAndReportsCollision : Obligations.DrwXorsTheSpriteAndReportsCollision := by
  intro x y n s h
  have hfault : faultOf s (.drw x y n) = .none := faultOf_drw_eq_none_iff.2 (spriteOutOfRange_eq_false h)
  exact ⟨drawn s x y n, exec_drw h x y, fun r c => ⟨drawn_pixel_of_spriteSets, drawn_pixel_of_not_spriteSets⟩,
    drawn_getV_vf_eq_one, drawn_getV_vf_eq_zero, rfl, rfl, fun z hz => (drawn_getV s x y n z).trans (if_neg hz),
    exec_unchangedExcept_mayWrite hfault (exec_drw h x y)⟩

/-- Settles O47: the raised fault of the range check. -/
theorem drwBeyondMemoryFaultsBeforeDrawing : Obligations.DrwBeyondMemoryFaultsBeforeDrawing :=
  fun _ _ n s hn h => answers_fault (by decide) (if_pos ((s.spriteOutOfRange_iff n).2 ⟨hn, h⟩))

/-- The sprite depends on the two coordinates, on `I` and on memory alone (44_display.md R222). -/
theorem spriteSets_congr {s u : State} {x y x' y' : Reg} (hmem : u.mem = s.mem) (hi : u.i = s.i)
    (hx : u.getV x' = s.getV x) (hy : u.getV y' = s.getV y) (n : Nibble) (r : Fin 32) (c : Fin 64) :
    SpriteSets u x' y' n r c ↔ SpriteSets s x y n r c := by
  rw [SpriteSets, SpriteSets, hmem, hi, hx, hy]

/-- Settles O48: the second draw has the sprite of the first and toggles its pixels back. -/
theorem drawingTwiceRestoresTheDisplay : Obligations.DrawingTwiceRestoresTheDisplay := by
  intro x y x' y' n s t u h ht hdisp hmem hi hx hy
  obtain rfl := Host.Outcome.next.inj ((exec_drw h x y).symm.trans ht)
  have hmem : u.mem = s.mem := hmem
  have hi : u.i = s.i := hi
  have hsets := spriteSets_congr hmem hi hx hy n
  refine ⟨_, exec_drw (s := u) (hi ▸ h) x' y', fun a b => ?pixels, ⟨fun hone => ?_, fun hhit => ?_⟩⟩
  case pixels =>
    by_cases hab : SpriteSets s x y n a b
    · rw [drawn_pixel_of_spriteSets ((hsets a b).2 hab), hdisp, drawn_pixel_of_spriteSets hab, Bool.not_not]
    · rw [drawn_pixel_of_not_spriteSets (mt (hsets a b).1 hab), hdisp, drawn_pixel_of_not_spriteSets hab]
  all_goals have hhits : (∃ a b, SpriteSets u x' y' n a b ∧ u.disp.pixel a b = true) ↔
      ∃ a b, SpriteSets s x y n a b ∧ (drawn s x y n).disp.pixel a b = true := by simp only [hsets, hdisp]
  · by_contra hnone
    have hzero := drawn_getV_vf_eq_zero (mt hhits.1 hnone)
    exact absurd (hone.symm.trans hzero) (by decide)
  · exact drawn_getV_vf_eq_one (hhits.2 hhit)

end Sys2Proof.Machine
end

section
/-! SUPPORT. The statements of 45_keypad_timers.md on the key-wait and the timers, and those of 47_host_interface.md on
the keypad, the reset and the run mode. -/

namespace Sys2Proof.Machine

open State

/-! ### Instructions -/

theorem exec_ldVxK (x : Reg) (s : State) : exec (.ldVxK x) s = .next ((s.setWaiting true).setWaitReg x) := rfl

theorem exec_ldVxDt (x : Reg) (s : State) : exec (.ldVxDt x) s = .next (s.loadV x s.dt) := rfl

theorem exec_ldDtVx (x : Reg) (s : State) : exec (.ldDtVx x) s = .next ((s.setDt (s.getV x)).advance 2) := rfl

theorem exec_ldStVx (x : Reg) (s : State) : exec (.ldStVx x) s = .next ((s.setSt (s.getV x)).advance 2) := rfl

/-- Settles O49: the two writes that enter the key-wait, and the frame of an instruction that never faults. -/
theorem ldVxKEntersTheKeyWait : Obligations.LdVxKEntersTheKeyWait :=
  fun x s => ⟨_, exec_ldVxK x s, rfl, rfl, exec_unchangedExcept_mayWrite (i := .ldVxK x) rfl (exec_ldVxK x s)⟩

/-- Settles O50: a `loadV` of the timer, and a write of each timer. -/
theorem timerMoves : Obligations.TimerMoves :=
  fun x s => ⟨answers_loadV (exec_ldVxDt x s) (s.getV_loadV_same x s.dt),
    ⟨_, exec_ldDtVx x s, rfl, rfl, exec_unchangedExcept_mayWrite (i := .ldDtVx x) rfl (exec_ldDtVx x s)⟩,
    ⟨_, exec_ldStVx x s, rfl, rfl, exec_unchangedExcept_mayWrite (i := .ldStVx x) rfl (exec_ldStVx x s)⟩⟩

/-! ### The keypad -/

theorem State.setKey_unchangedExcept (s : State) (k : Key) (b : Bool) : UnchangedExcept [.key] s (s.setKey k b) := by
  intro e he
  cases e
  case key => exact absurd (List.mem_singleton_self _) he
  all_goals simp [SameElem]

@[simp] theorem State.getKey_keyDown (s : State) (k j : Key) :
    (s.keyDown k).getKey j = if j = k then true else s.getKey j :=
  s.getKey_setKey k true j

@[simp] theorem State.getKey_keyUp (s : State) (k j : Key) :
    (s.keyUp k).getKey j = if j = k then false else s.getKey j :=
  s.getKey_setKey k false j

/-- Settles O52: `keyDown` is the write of a cell and of `last_key`, `keyUp` the write of a cell. -/
theorem keyEventsSetTheirOwnCell : Obligations.KeyEventsSetTheirOwnCell :=
  fun k s => ⟨(s.getKey_keyDown k k).trans (if_pos rfl), rfl, (s.getKey_keyUp k k).trans (if_pos rfl),
    fun j hj => ⟨(s.getKey_keyDown k j).trans (if_neg hj), (s.getKey_keyUp k j).trans (if_neg hj)⟩,
    (s.setKey_unchangedExcept k true).trans (setLastKey_unchangedExcept _ k), s.setKey_unchangedExcept k false⟩

/-! ### Reset (10_state.md R39) -/

theorem getV_hostReset (s : State) (x : Reg) : s.hostReset.getV x = 0 := by
  simp [hostReset, reset, getV]

theorem getElem_hostReset_stack (s : State) (k : Fin 16) : s.hostReset.stack[k] = 0 := by
  simp [hostReset, reset]

theorem getKey_hostReset (s : State) (k : Key) : s.hostReset.getKey k = false := by
  simp [hostReset, reset, getKey]

theorem read_hostReset_of_lt (s : State) {a : Nat} (ha : a < Config.fontSize) :
    s.hostReset.mem.read a = Config.font a :=
  if_pos ha

theorem read_hostReset_of_le (s : State) {a : Nat} (ha : Config.fontSize ≤ a) : s.hostReset.mem.read a = 0 :=
  if_neg (Nat.not_lt_of_le ha)

/-- Settles O53: element by element, the reset state with its own draw and the pulses sent so far. -/
theorem resetErasesEverything : Obligations.ResetErasesEverything :=
  fun s => ⟨getV_hostReset s, rfl, rfl, rfl, getElem_hostReset_stack s, rfl, rfl, fun _ => read_hostReset_of_lt s,
    fun _ => read_hostReset_of_le s, Display.pixel_clear, getKey_hostReset s, rfl, rfl, rfl, rfl, rfl, rfl, rfl⟩

/-! ### The run mode -/

theorem State.setRunMode_unchangedExcept (s : State) (m : RunMode) : UnchangedExcept [.runMode] s (s.setRunMode m) := by
  intro e he
  cases e
  case runMode => exact absurd (List.mem_singleton_self _) he
  all_goals simp [SameElem]

/-- Both guarded transitions are one write of the run mode. -/
theorem State.pause_eq (s : State) : s.pause = s.setRunMode (if s.runMode = .running then .paused else s.runMode) := by
  by_cases h : s.runMode = .running
  · rw [pause, if_pos h, if_pos h]
  · rw [pause, if_neg h, if_neg h]; rfl

theorem State.singleStep_eq (s : State) :
    s.singleStep = s.setRunMode (if s.runMode = .paused then .singleStepPending else s.runMode) := by
  by_cases h : s.runMode = .paused
  · rw [singleStep, if_pos h, if_pos h]
  · rw [singleStep, if_neg h, if_neg h]; rfl

theorem State.pause_unchangedExcept (s : State) : UnchangedExcept [.runMode] s s.pause := by
  rw [pause_eq]; exact s.setRunMode_unchangedExcept _

theorem State.singleStep_unchangedExcept (s : State) : UnchangedExcept [.runMode] s s.singleStep := by
  rw [singleStep_eq]; exact s.setRunMode_unchangedExcept _

/-- Settles O54: each of the three is one write of the run mode. -/
theorem pauseResumeSingleStepTransitions : Obligations.PauseResumeSingleStepTransitions :=
  fun s => ⟨congrArg State.runMode s.pause_eq, rfl, congrArg State.runMode s.singleStep_eq,
    s.pause_unchangedExcept, s.setRunMode_unchangedExcept .running, s.singleStep_unchangedExcept⟩

end Sys2Proof.Machine
end
